-- ==== Sys2Proof/Word.lean ====
section
/-! DEFINITION. The words of CORE and their widths (spec 00_scope.md R5, R7, R8). Every value is unsigned. -/

namespace Sys2Proof

/-- A memory byte, a general register, a timer (R5: V_WIDTH, DT_WIDTH, ST_WIDTH). -/
abbrev Byte := BitVec 8

/-- I, PC, a stack entry, an instruction word (R5: I_WIDTH, PC_WIDTH, STACK_ENTRY_WIDTH, INSTR_WIDTH). -/
abbrev Word := BitVec 16

/-- The 12-bit address operand `nnn` of an instruction (R72). -/
abbrev Addr := BitVec 12

/-- The index of a general register V0..VF (R20, R72: x and y are in 0..=15). -/
abbrev Reg := Fin 16

/-- VF, the register V15, which doubles as the flag register (R14, R22). -/
abbrev VF : Reg := 15

end Sys2Proof
end

