-- ==== Sys2Proof/Syntax.lean ====
section
/-! DEFINITION. The instructions of CORE, one constructor per row of spec/opcode_table.json (30_encoding.md R74, R87).
Fields are those of R72: `x`, `y` register indices, `nn` a byte, `nnn` a 12-bit address, `n` a row count. -/

namespace Sys2Proof

inductive Instr
  /-- 00E0 `CLS` (R170) -/
  | cls
  /-- 00EE `RET` (R101) -/
  | ret
  /-- 1NNN `JP nnn` (R100) -/
  | jp (nnn : Addr)
  /-- 2NNN `CALL nnn` (R102) -/
  | call (nnn : Addr)
  /-- 3XNN `SE Vx, nn` (R103) -/
  | seImm (x : Reg) (nn : Byte)
  /-- 4XNN `SNE Vx, nn` (R104) -/
  | sneImm (x : Reg) (nn : Byte)
  /-- 5XY0 `SE Vx, Vy` (R105) -/
  | seReg (x y : Reg)
  /-- 6XNN `LD Vx, nn` (R120) -/
  | ldImm (x : Reg) (nn : Byte)
  /-- 7XNN `ADD Vx, nn` (R121) -/
  | addImm (x : Reg) (nn : Byte)
  /-- 8XY0 `LD Vx, Vy` (R122) -/
  | ldReg (x y : Reg)
  /-- 8XY1 `OR Vx, Vy` (R123) -/
  | orReg (x y : Reg)
  /-- 8XY2 `AND Vx, Vy` (R124) -/
  | andReg (x y : Reg)
  /-- 8XY3 `XOR Vx, Vy` (R125) -/
  | xorReg (x y : Reg)
  /-- 8XY4 `ADD Vx, Vy` (R126) -/
  | addReg (x y : Reg)
  /-- 8XY5 `SUB Vx, Vy` (R127) -/
  | sub (x y : Reg)
  /-- 8XY6 `SHR Vx, Vy`, y decoded but not read (R128) -/
  | shr (x y : Reg)
  /-- 8XY7 `SUBN Vx, Vy` (R129) -/
  | subn (x y : Reg)
  /-- 8XYE `SHL Vx, Vy`, y decoded but not read (R130) -/
  | shl (x y : Reg)
  /-- 9XY0 `SNE Vx, Vy` (R106) -/
  | sneReg (x y : Reg)
  /-- ANNN `LD I, nnn` (R150) -/
  | ldI (nnn : Addr)
  /-- BNNN `LD I, nnn + V0` (R151) -/
  | ldIV0 (nnn : Addr)
  /-- CXNN `RND Vx, nn` (R138) -/
  | rnd (x : Reg) (nn : Byte)
  /-- DXYN `DRW Vx, Vy, n` (R171); `n` is a count of rows -/
  | drw (x y : Reg) (n : Nat)
  /-- EX9E `SKP Vx` (R190) -/
  | skp (x : Reg)
  /-- EXA1 `SKNP Vx` (R191) -/
  | sknp (x : Reg)
  /-- FX07 `LD Vx, DT` (R193) -/
  | ldVxDt (x : Reg)
  /-- FX0A `LD Vx, K` (R192) -/
  | ldVxK (x : Reg)
  /-- FX15 `LD DT, Vx` (R194) -/
  | ldDtVx (x : Reg)
  /-- FX18 `LD ST, Vx` (R195) -/
  | ldStVx (x : Reg)
  /-- FX1E `ADD I, Vx` (R152) -/
  | addIVx (x : Reg)
  /-- FX29 `LD F, Vx` (R153) -/
  | ldFVx (x : Reg)
  /-- FX33 `LD B, Vx` (R155) -/
  | ldBVx (x : Reg)
  /-- FX55 `LD [I], Vx` (R156) -/
  | ldMIVx (x : Reg)
  /-- FX65 `LD Vx, [I]` (R157) -/
  | ldVxMI (x : Reg)
  deriving DecidableEq, Repr

end Sys2Proof
end

