-- ==== Sys2Proof/WellFormed.lean ====
section
/-! DEFINITION. Which instructions CORE has. Register operands, `nn` and `nnn` are in range by their types;
the one operand that is a plain number is DXYN's row count, "a count 0..=15" (30_encoding.md R73). -/

namespace Sys2Proof

/-- R73: every operand is in the range its field can hold. -/
def Instr.wf : Instr → Bool
  | .cls | .ret => true
  | .jp _ | .call _ | .ldI _ | .ldIV0 _ => true
  | .seImm _ _ | .sneImm _ _ | .ldImm _ _ | .addImm _ _ | .rnd _ _ => true
  | .seReg _ _ | .sneReg _ _ | .ldReg _ _ | .orReg _ _ | .andReg _ _ | .xorReg _ _ => true
  | .addReg _ _ | .sub _ _ | .shr _ _ | .subn _ _ | .shl _ _ => true
  | .drw _ _ n => decide (n ≤ 15)
  | .skp _ | .sknp _ | .ldVxDt _ | .ldVxK _ | .ldDtVx _ | .ldStVx _ => true
  | .addIVx _ | .ldFVx _ | .ldBVx _ | .ldMIVx _ | .ldVxMI _ => true

end Sys2Proof
end

