-- ==== Sys2Proof/Decode.lean ====
section
/-! DEFINITION. Decoding of the 65536 instruction words, the encoder, and the opcode table as data
(spec 30_encoding.md R70 to R86, spec/opcode_table.json). -/

namespace Sys2Proof

/-- Why bytes are no instruction. -/
inductive DecodeError
  /-- Fewer than the two bytes of an instruction word (R70). -/
  | truncated
  /-- A word of no row of the table: "a fatal 'illegal instruction' condition" (R84). -/
  | illegalInstruction (op : Word)
  deriving DecidableEq, Repr

/-- `op[hi:lo]` (R7): bits hi down to lo inclusive, as an unsigned number. -/
def bits (hi lo : Nat) (op : Word) : Nat := op.toNat / 2 ^ lo % 2 ^ (hi + 1 - lo)

/-- `x = op[11:8]` (R72). -/
def fieldX (op : Word) : Reg := Fin.ofNat 16 (bits 11 8 op)

/-- `y = op[7:4]` (R72). -/
def fieldY (op : Word) : Reg := Fin.ofNat 16 (bits 7 4 op)

/-- `n = op[3:0]` (R72). -/
def fieldN (op : Word) : Nat := bits 3 0 op

/-- `nn = op[7:0]` (R72). -/
def fieldNN (op : Word) : Byte := BitVec.ofNat 8 (bits 7 0 op)

/-- `nnn = op[11:0]` (R72). -/
def fieldNNN (op : Word) : Addr := BitVec.ofNat 12 (bits 11 0 op)

/-- Group 0x0: the whole word selects (R74, R83). -/
def decodeGroup0 (op : Word) : Except DecodeError Instr :=
  if op = 0x00E0#16 then .ok .cls
  else if op = 0x00EE#16 then .ok .ret
  else .error (.illegalInstruction op)

/-- Group 0x8: the fourth nibble selects (R74, R83). -/
def decodeGroup8 (op : Word) : Except DecodeError Instr :=
  let x := fieldX op
  let y := fieldY op
  match fieldN op with
  | 0x0 => .ok (.ldReg x y)
  | 0x1 => .ok (.orReg x y)
  | 0x2 => .ok (.andReg x y)
  | 0x3 => .ok (.xorReg x y)
  | 0x4 => .ok (.addReg x y)
  | 0x5 => .ok (.sub x y)
  | 0x6 => .ok (.shr x y)
  | 0x7 => .ok (.subn x y)
  | 0xE => .ok (.shl x y)
  | _ => .error (.illegalInstruction op)

/-- Group 0xE: the low byte selects (R74, R83, C6). -/
def decodeGroupE (op : Word) : Except DecodeError Instr :=
  let x := fieldX op
  match bits 7 0 op with
  | 0x9E => .ok (.skp x)
  | 0xA1 => .ok (.sknp x)
  | _ => .error (.illegalInstruction op)

/-- Group 0xF: the low byte selects (R74, R83). -/
def decodeGroupF (op : Word) : Except DecodeError Instr :=
  let x := fieldX op
  match bits 7 0 op with
  | 0x07 => .ok (.ldVxDt x)
  | 0x0A => .ok (.ldVxK x)
  | 0x15 => .ok (.ldDtVx x)
  | 0x18 => .ok (.ldStVx x)
  | 0x1E => .ok (.addIVx x)
  | 0x29 => .ok (.ldFVx x)
  | 0x33 => .ok (.ldBVx x)
  | 0x55 => .ok (.ldMIVx x)
  | 0x65 => .ok (.ldVxMI x)
  | _ => .error (.illegalInstruction op)

/-- Groups 0x5 and 0x9: the fourth nibble must be 0 (R83, D3). -/
def decodeXY0 (op : Word) (i : Instr) : Except DecodeError Instr :=
  if fieldN op = 0x0 then .ok i else .error (.illegalInstruction op)

/-- `Decode(op)`, total on all words (R82), by the first nibble (R71, R74, R83). -/
def decodeWord (op : Word) : Except DecodeError Instr :=
  match bits 15 12 op with
  | 0x0 => decodeGroup0 op
  | 0x1 => .ok (.jp (fieldNNN op))
  | 0x2 => .ok (.call (fieldNNN op))
  | 0x3 => .ok (.seImm (fieldX op) (fieldNN op))
  | 0x4 => .ok (.sneImm (fieldX op) (fieldNN op))
  | 0x5 => decodeXY0 op (.seReg (fieldX op) (fieldY op))
  | 0x6 => .ok (.ldImm (fieldX op) (fieldNN op))
  | 0x7 => .ok (.addImm (fieldX op) (fieldNN op))
  | 0x8 => decodeGroup8 op
  | 0x9 => decodeXY0 op (.sneReg (fieldX op) (fieldY op))
  | 0xA => .ok (.ldI (fieldNNN op))
  | 0xB => .ok (.ldIV0 (fieldNNN op))
  | 0xC => .ok (.rnd (fieldX op) (fieldNN op))
  | 0xD => .ok (.drw (fieldX op) (fieldY op) (fieldN op))
  | 0xE => decodeGroupE op
  | 0xF => decodeGroupF op
  | _ => .error (.illegalInstruction op)

/-- The big-endian word of two bytes: `op = (hi << 8) | lo` (R57). -/
def wordOfBytes (hi lo : Byte) : Word := hi ++ lo

/-- Decoding of a byte sequence: one word, big-endian, and the bytes after it (R70). -/
def decode : List Byte → Except DecodeError (Instr × List Byte)
  | hi :: lo :: rest =>
    match decodeWord (wordOfBytes hi lo) with
    | .ok i => .ok (i, rest)
    | .error e => .error e
  | _ => .error .truncated

/-! The encoder, from the formats of R71. -/

/-- Format `nnn` (R71). -/
def wordNNN (group : Nat) (nnn : Addr) : Word := BitVec.ofNat 16 (0x1000 * group + nnn.toNat)

/-- Format `xnn` (R71). -/
def wordXNN (group : Nat) (x : Reg) (nn : Byte) : Word :=
  BitVec.ofNat 16 (0x1000 * group + 0x100 * x.val + nn.toNat)

/-- Formats `xy0`, `xyf` and `xyn` (R71): the fourth nibble is 0, a selector or n. -/
def wordXYN (group : Nat) (x y : Reg) (n : Nat) : Word :=
  BitVec.ofNat 16 (0x1000 * group + 0x100 * x.val + 0x10 * y.val + n % 16)

/-- Format `xkk` (R71). -/
def wordXKK (group : Nat) (x : Reg) (kk : Nat) : Word :=
  BitVec.ofNat 16 (0x1000 * group + 0x100 * x.val + kk)

/-- The word of an instruction (R71, R74). -/
def encode : Instr → Word
  | .cls => 0x00E0#16
  | .ret => 0x00EE#16
  | .jp nnn => wordNNN 0x1 nnn
  | .call nnn => wordNNN 0x2 nnn
  | .seImm x nn => wordXNN 0x3 x nn
  | .sneImm x nn => wordXNN 0x4 x nn
  | .seReg x y => wordXYN 0x5 x y 0x0
  | .ldImm x nn => wordXNN 0x6 x nn
  | .addImm x nn => wordXNN 0x7 x nn
  | .ldReg x y => wordXYN 0x8 x y 0x0
  | .orReg x y => wordXYN 0x8 x y 0x1
  | .andReg x y => wordXYN 0x8 x y 0x2
  | .xorReg x y => wordXYN 0x8 x y 0x3
  | .addReg x y => wordXYN 0x8 x y 0x4
  | .sub x y => wordXYN 0x8 x y 0x5
  | .shr x y => wordXYN 0x8 x y 0x6
  | .subn x y => wordXYN 0x8 x y 0x7
  | .shl x y => wordXYN 0x8 x y 0xE
  | .sneReg x y => wordXYN 0x9 x y 0x0
  | .ldI nnn => wordNNN 0xA nnn
  | .ldIV0 nnn => wordNNN 0xB nnn
  | .rnd x nn => wordXNN 0xC x nn
  | .drw x y n => wordXYN 0xD x y n
  | .skp x => wordXKK 0xE x 0x9E
  | .sknp x => wordXKK 0xE x 0xA1
  | .ldVxDt x => wordXKK 0xF x 0x07
  | .ldVxK x => wordXKK 0xF x 0x0A
  | .ldDtVx x => wordXKK 0xF x 0x15
  | .ldStVx x => wordXKK 0xF x 0x18
  | .addIVx x => wordXKK 0xF x 0x1E
  | .ldFVx x => wordXKK 0xF x 0x29
  | .ldBVx x => wordXKK 0xF x 0x33
  | .ldMIVx x => wordXKK 0xF x 0x55
  | .ldVxMI x => wordXKK 0xF x 0x65

/-- The two bytes of a word as memory holds them, most significant first (R57). -/
def wordBytes (op : Word) : List Byte := [op.extractLsb' 8 8, op.extractLsb' 0 8]

/-! spec/opcode_table.json as data. -/

/-- A row of the opcode table: a word `op` is of the row iff `op & mask = pattern` (R82). -/
structure OpcodeRow where
  mnemonic : String
  mask : Word
  pattern : Word
  deriving DecidableEq, Repr

/-- `op & mask = pattern` (R82). -/
def OpcodeRow.matchesWord (r : OpcodeRow) (op : Word) : Bool := op &&& r.mask == r.pattern

/-- The row of spec/opcode_table.json an instruction comes from. -/
def Instr.row : Instr → OpcodeRow
  | .cls => ⟨"CLS", 0xFFFF, 0x00E0⟩
  | .ret => ⟨"RET", 0xFFFF, 0x00EE⟩
  | .jp _ => ⟨"JP", 0xF000, 0x1000⟩
  | .call _ => ⟨"CALL", 0xF000, 0x2000⟩
  | .seImm _ _ => ⟨"SE_imm", 0xF000, 0x3000⟩
  | .sneImm _ _ => ⟨"SNE_imm", 0xF000, 0x4000⟩
  | .seReg _ _ => ⟨"SE_reg", 0xF00F, 0x5000⟩
  | .ldImm _ _ => ⟨"LD_imm", 0xF000, 0x6000⟩
  | .addImm _ _ => ⟨"ADD_imm", 0xF000, 0x7000⟩
  | .ldReg _ _ => ⟨"LD_reg", 0xF00F, 0x8000⟩
  | .orReg _ _ => ⟨"OR", 0xF00F, 0x8001⟩
  | .andReg _ _ => ⟨"AND", 0xF00F, 0x8002⟩
  | .xorReg _ _ => ⟨"XOR", 0xF00F, 0x8003⟩
  | .addReg _ _ => ⟨"ADD_reg", 0xF00F, 0x8004⟩
  | .sub _ _ => ⟨"SUB", 0xF00F, 0x8005⟩
  | .shr _ _ => ⟨"SHR", 0xF00F, 0x8006⟩
  | .subn _ _ => ⟨"SUBN", 0xF00F, 0x8007⟩
  | .shl _ _ => ⟨"SHL", 0xF00F, 0x800E⟩
  | .sneReg _ _ => ⟨"SNE_reg", 0xF00F, 0x9000⟩
  | .ldI _ => ⟨"LD_I", 0xF000, 0xA000⟩
  | .ldIV0 _ => ⟨"LD_I_V0", 0xF000, 0xB000⟩
  | .rnd _ _ => ⟨"RND", 0xF000, 0xC000⟩
  | .drw _ _ _ => ⟨"DRW", 0xF000, 0xD000⟩
  | .skp _ => ⟨"SKP", 0xF0FF, 0xE09E⟩
  | .sknp _ => ⟨"SKNP", 0xF0FF, 0xE0A1⟩
  | .ldVxDt _ => ⟨"LD_Vx_DT", 0xF0FF, 0xF007⟩
  | .ldVxK _ => ⟨"LD_Vx_K", 0xF0FF, 0xF00A⟩
  | .ldDtVx _ => ⟨"LD_DT_Vx", 0xF0FF, 0xF015⟩
  | .ldStVx _ => ⟨"LD_ST_Vx", 0xF0FF, 0xF018⟩
  | .addIVx _ => ⟨"ADD_I_Vx", 0xF0FF, 0xF01E⟩
  | .ldFVx _ => ⟨"LD_F_Vx", 0xF0FF, 0xF029⟩
  | .ldBVx _ => ⟨"LD_B_Vx", 0xF0FF, 0xF033⟩
  | .ldMIVx _ => ⟨"LD_mI_Vx", 0xF0FF, 0xF055⟩
  | .ldVxMI _ => ⟨"LD_Vx_mI", 0xF0FF, 0xF065⟩

/-- One instruction of each of the rows CLS to SE_reg, with every operand 0. -/
def samplesFlow : List Instr := [.cls, .ret, .jp 0, .call 0, .seImm 0 0, .sneImm 0 0, .seReg 0 0]

/-- One instruction of each of the rows LD_imm to SNE_reg, with every operand 0. -/
def samplesAlu : List Instr :=
  [.ldImm 0 0, .addImm 0 0, .ldReg 0 0, .orReg 0 0, .andReg 0 0, .xorReg 0 0, .addReg 0 0, .sub 0 0, .shr 0 0,
   .subn 0 0, .shl 0 0, .sneReg 0 0]

/-- One instruction of each of the rows LD_I to SKNP, with every operand 0. -/
def samplesDraw : List Instr := [.ldI 0, .ldIV0 0, .rnd 0 0, .drw 0 0 0, .skp 0, .sknp 0]

/-- One instruction of each of the rows of group 0xF, with every operand 0. -/
def samplesF : List Instr :=
  [.ldVxDt 0, .ldVxK 0, .ldDtVx 0, .ldStVx 0, .addIVx 0, .ldFVx 0, .ldBVx 0, .ldMIVx 0, .ldVxMI 0]

/-- One instruction of each row, in the table's order, with every operand 0. -/
def Instr.samples : List Instr := samplesFlow ++ samplesAlu ++ samplesDraw ++ samplesF

/-- spec/opcode_table.json: its 34 rows in order. -/
def opcodeTable : List OpcodeRow := Instr.samples.map Instr.row

/-- The word of a table row's numbering (bit 0 is the least significant bit of the one word; bits from `nbits` up are 0). -/
def tableWord (nbits w : Nat) : Word := BitVec.ofNat 16 (w % 2 ^ nbits)

/-- What the decoder reads from an instruction given in the opcode table's numbering, laid out as memory holds it. -/
def decodeTableWord (nbits w : Nat) : Option Instr :=
  match decode (wordBytes (tableWord nbits w)) with
  | .ok (i, _) => some i
  | .error _ => none

end Sys2Proof
end

