-- ==== Sys2Proof/Config.lean ====
section
/-! DEFINITION. The implementation parameters of spec 00_scope.md R6: their types, and the free value RANDOM.
The values CORE is specified with are in Machine/Params.lean. -/

namespace Sys2Proof

/-- SUB_FLAG (R6, D6): what VF means after 8XY5 and 8XY7. -/
inductive SubFlag
  /-- VF = 1 iff a borrow occurred: the reading CORE is specified with. -/
  | borrow
  /-- VF = 1 iff no borrow occurred: the alternative reading of D6. -/
  | noBorrow
  deriving DecidableEq, Repr

/-- SHL_FLAG (R6, D7): the value of VF after 8XYE. -/
inductive ShlFlag
  /-- The raw masked bit, 0x00 or 0x80: the reading CORE is specified with. -/
  | raw
  /-- The bit as 0 or 1: the alternative reading of D7. -/
  | normalised
  deriving DecidableEq, Repr

/-- COLLISION (R6, D8): how DXYN sets VF. -/
inductive CollisionRule
  /-- Once per sprite, 1 iff some cell went from 1 to 0: the reading CORE is specified with. -/
  | perSprite
  /-- From the last set sprite bit only: the approximation of the original that D8 writes out (log 12). -/
  | perBit
  deriving DecidableEq, Repr

/-- The parameters of R6 that have a value; RANDOM, which has none, is `Config.randomByte`. -/
structure Config where
  /-- FONT: the bytes copied to 0x000..=0x04F at reset (R250, R253). -/
  font : List Byte
  subFlag : SubFlag
  shlFlag : ShlFlag
  collision : CollisionRule
  deriving DecidableEq, Repr

/-- RANDOM (R6, R138, D25): draw number `k` of the random source.
A FREE VALUE: it has no body, so no proof can tell which byte any draw gives (log 4). -/
opaque Config.randomByte : Nat → Byte

end Sys2Proof
end

