-- ==== Sys2Proof/Machine/Params.lean ====
section
/-! DEFINITION. The sizes of CORE (spec 00_scope.md R5) and the parameter values it is specified with (R6, R253). -/

namespace Sys2Proof.Machine

/-- FONT_SIZE (R5): the font occupies 0x000..=0x04F. -/
abbrev fontSize : Nat := 80

/-- PROGRAM_BASE (R5). -/
abbrev programBase : Nat := 0x200

/-- MAX_ROM (R5): 4096 - 512. -/
abbrev maxRom : Nat := 3584

/-- Glyphs 0 to 3 of the table of R253. -/
def glyphs0to3 : List Byte :=
  [0xF0, 0x90, 0x90, 0x90, 0xF0,  0x20, 0x60, 0x20, 0x20, 0x70,
   0xF0, 0x10, 0xF0, 0x80, 0xF0,  0xF0, 0x10, 0xF0, 0x10, 0xF0]

/-- Glyphs 4 to 7 of the table of R253. -/
def glyphs4to7 : List Byte :=
  [0x90, 0x90, 0xF0, 0x10, 0x10,  0xF0, 0x80, 0xF0, 0x10, 0xF0,
   0xF0, 0x80, 0xF0, 0x90, 0xF0,  0xF0, 0x10, 0x20, 0x40, 0x40]

/-- Glyphs 8 to B of the table of R253. -/
def glyphs8toB : List Byte :=
  [0xF0, 0x90, 0xF0, 0x90, 0xF0,  0xF0, 0x90, 0xF0, 0x10, 0xF0,
   0xF0, 0x90, 0xF0, 0x90, 0x90,  0xE0, 0x90, 0xE0, 0x90, 0xE0]

/-- Glyphs C to F of the table of R253. -/
def glyphsCtoF : List Byte :=
  [0xF0, 0x80, 0x80, 0x80, 0xF0,  0xE0, 0x90, 0x90, 0x90, 0xE0,
   0xF0, 0x80, 0xF0, 0x80, 0xF0,  0xF0, 0x80, 0xF0, 0x80, 0x80]

/-- The values of R6's column "this spec"; FONT is the table of R253 (logs 6, 12). -/
def params : Config where
  font := glyphs0to3 ++ glyphs4to7 ++ glyphs8toB ++ glyphsCtoF
  subFlag := .borrow
  shlFlag := .raw
  collision := .perSprite

end Sys2Proof.Machine
end

