-- ==== Sys2Proof/Machine/State.lean ====
section
/-! DEFINITION. The state of CORE, whole (spec 10_state.md R20 to R37), as plain data; the state after reset (R35);
and the two ways an `Outcome` could stop, neither of which any instruction of this model uses. -/

namespace Sys2Proof.Machine

/-- Memory (R50): the listed bytes, addresses strictly rising, none equal to what an unlisted address reads as
(`Memory.wf` in Machine/Ops.lean). An unlisted address reads as `resetByte` gives it. -/
abbrev Memory := List Host.Cell

/-- The framebuffer (R30): 32 rows of 64 one-bit cells. -/
abbrev Framebuffer := Vector (Vector Bool 64) 32

/-- The fatal error kinds of R210. -/
inductive ErrorKind
  /-- "opcode pattern not in the dispatch table" -/
  | illegalInstruction
  /-- "any memory or framebuffer index outside its valid range" -/
  | outOfBounds
  /-- "call beyond 16 nesting levels" -/
  | stackOverflow
  /-- "return with an empty stack" -/
  | stackUnderflow
  /-- "program too large to fit in the remaining address space" -/
  | invalidRom
  deriving DecidableEq, Repr

/-- The error record of R212. Its field `code` is a function of `kind` (`ErrorRecord.code` in Machine/Ops.lean). -/
structure ErrorRecord where
  kind : ErrorKind
  /-- The address the faulting step fetched from. -/
  pc : Word
  /-- The fetched word, or none when the fetch itself failed. -/
  opcode : Option Word
  /-- The address or index that was out of range, or the program length. -/
  addr : Option Nat
  deriving DecidableEq, Repr

structure State where
  /-- memory (R50) -/
  mem : Memory
  /-- V0..VF (R20) -/
  v : Vector Byte 16
  /-- the index register I (R24) -/
  i : Word
  /-- the program counter PC (R25) -/
  pc : Word
  /-- the call stack slots S[0]..S[15] (R26) -/
  stack : Vector Word 16
  /-- SP, the number of stack entries in use, 0..=16 (R26, C3) -/
  sp : Fin 17
  /-- the delay timer DT (R27) -/
  dt : Byte
  /-- the sound timer ST (R27) -/
  st : Byte
  /-- the key latch K[0]..K[15], true meaning pressed (R28) -/
  keys : Vector Bool 16
  /-- WAIT, waiting for a key (R29) -/
  wait : Bool
  /-- the framebuffer FB (R30) -/
  fb : Framebuffer
  /-- DIRTY (R31) -/
  dirty : Bool
  /-- FAULT: none while CORE runs (R32) -/
  fault : Option ErrorRecord
  /-- The model's own field: which draw of RANDOM the next CXNN takes (R138, log 4). -/
  draws : Nat
  deriving DecidableEq, Repr

/-- Reasons for an `Outcome.fault`: there are none. A fatal error of CORE is not one: the spec gives its whole effect
(FAULT is set, nothing else changes, later steps do nothing: R213, R214), so it is a next state (log 1, safe). -/
inductive Fault : Type
  deriving DecidableEq, Repr

/-- Reasons for an `Outcome.refused`. -/
inductive Refusal
  /-- An instruction without a meaning would be refused so by its arm of `exec` (safe); every arm has its meaning. -/
  | notModelled (mnemonic : String)
  deriving DecidableEq, Repr

/-- The state after reset (R35, R250), with the empty program (R251): memory lists nothing beyond its reset contents.
The zero values are the spec's own decisions D19, D20, D32 (log 7); `draws` is log 4. -/
def State.reset : State where
  mem := []
  v := Vector.replicate 16 0x00#8
  i := 0x0000#16
  pc := 0x200#16
  stack := Vector.replicate 16 0x0000#16
  sp := 0
  dt := 0x00#8
  st := 0x00#8
  keys := Vector.replicate 16 false
  wait := false
  fb := Vector.replicate 32 (Vector.replicate 64 false)
  dirty := false
  fault := none
  draws := 0

end Sys2Proof.Machine
end

