-- ==== Sys2Proof/Machine/Operands.lean ====
section
/-! DEFINITION. The operand forms of CORE (spec 00_scope.md R8, 30_encoding.md R73, 42_index_memory.md R149):
widths, register operands, the effective address I + k, and the values an instruction computes an operand to. -/

namespace Sys2Proof.Machine

/-- `trunc8(v) = v mod 256` (R8). -/
def trunc8 (v : Nat) : Byte := BitVec.ofNat 8 v

/-- `trunc16(v) = v mod 65536` (R8). -/
def trunc16 (v : Nat) : Word := BitVec.ofNat 16 v

/-- `zext_16(nnn)` (R8, R73). -/
def zext16 (nnn : Addr) : Word := nnn.setWidth 16

/-- Read `V[r]` (R9, R20). -/
def State.reg (s : State) (r : Reg) : Byte := s.v[r.val]

/-- Read `K[k]` (R9, R28). -/
def State.key (s : State) (k : Fin 16) : Bool := s.keys[k.val]

/-- Read `S[k]` (R9, R26). -/
def State.slot (s : State) (k : Fin 16) : Word := s.stack[k.val]

/-- Read `FB[x][y]` (R9, R30). -/
def Framebuffer.cell (fb : Framebuffer) (x : Fin 64) (y : Fin 32) : Bool := fb[y.val][x.val]

/-- The effective address `I + k`, the exact sum (R149). -/
def State.effAddr (s : State) (k : Nat) : Nat := s.i.toNat + k

/-- `V0..=VX` in order (R156). -/
def State.regsUpTo (s : State) (x : Reg) : List Byte := s.v.toList.take (x.val + 1)

/-- The BCD digits of a byte: hundreds, tens, units (R155). -/
def bcdDigits (b : Byte) : List Byte :=
  [trunc8 (b.toNat / 100), trunc8 (b.toNat / 10 % 10), trunc8 (b.toNat % 10)]

/-- A byte as the hex digit or key index it must be: none when it is above 0xF (R153, R190, R191). -/
def digitOf (b : Byte) : Option (Fin 16) :=
  if h : b.toNat < 16 then some ⟨b.toNat, h⟩ else none

/-- The address of the font glyph of digit `d` (R153, R154). -/
def glyphAddr (d : Fin 16) : Word := trunc16 (5 * d.val)

/-- The least pressed key, if any (R192). -/
def State.firstKey (s : State) : Option (Fin 16) := (List.finRange 16).find? s.key

/-- A column coordinate reduced modulo 64 (R173). -/
def column (n : Nat) : Fin 64 := Fin.ofNat 64 n

/-- A row coordinate reduced modulo 32 (R173). -/
def rowOf (n : Nat) : Fin 32 := Fin.ofNat 32 n

/-- The pixel of a sprite row byte at column offset `c`: bit 7 is offset 0 (R173, log 13). -/
def spritePixel (row : Byte) (c : Nat) : Bool := decide (c < 8) && row.getLsbD (7 - c)

end Sys2Proof.Machine
end

