-- ==== Sys2Proof/Machine/Flags.lean ====
section
/-! DEFINITION. Every value an instruction writes into VF as a flag (spec 10_state.md R22; 41_alu.md R126 to R130;
43_display.md R172), for each reading of the parameters of 00_scope.md R6. -/

namespace Sys2Proof.Machine

/-- 0 or 1 in a byte. -/
def flagOf (b : Bool) : Byte := if b then 0x01#8 else 0x00#8

/-- VF after 8XY4: 1 iff the sum is above 0xFF (R126). -/
def carryFlag (vx vy : Byte) : Byte := flagOf (decide (vx.toNat + vy.toNat > 0xFF))

/-- VF after a subtraction `a - b`, by the reading of SUB_FLAG (R127, R129, D6). -/
def differenceFlag (p : SubFlag) (a b : Byte) : Byte :=
  match p with
  | .borrow => flagOf (decide (a.toNat < b.toNat))
  | .noBorrow => flagOf (decide (b.toNat ≤ a.toNat))

/-- VF after 8XY6: the bit shifted out (R128). -/
def shiftRightFlag (vx : Byte) : Byte := vx &&& 0x01#8

/-- VF after 8XYE: bit 7, by the reading of SHL_FLAG (R130, D7). -/
def shiftLeftFlag (p : ShlFlag) (vx : Byte) : Byte :=
  match p with
  | .raw => vx &&& 0x80#8
  | .normalised => vx >>> 7

/-- The collision seen so far after a set sprite bit fell on a cell, by the reading of COLLISION (R172, D8):
`hit` says whether that cell held 1. -/
def collide (p : CollisionRule) (soFar hit : Bool) : Bool :=
  match p with
  | .perSprite => soFar || hit
  | .perBit => hit

end Sys2Proof.Machine
end

