-- ==== Sys2Proof/Machine/Ops.lean ====
section
/-! DEFINITION. The shared operations over memory, registers, stack and framebuffer, fetching a word, and the fatal
error (spec 20_memory.md, 10_state.md, 60_exceptions.md §2). -/

namespace Sys2Proof.Machine

/-- What a step or a meaning answers. -/
abbrev Result := Host.Outcome State Fault Refusal

/-! ### Memory (20_memory.md) -/

/-- What a byte holds after reset with the empty program (R35, R250): FONT at 0x000..=0x04F, 0x00 elsewhere.
This is what an address that memory does not list reads as (log 5). -/
def resetByte (a : Nat) : Byte := if a < fontSize then params.font.getD a 0x00#8 else 0x00#8

/-- The byte at an address, of those listed or else as reset left it. -/
def Memory.byte : Memory → Nat → Byte
  | [], a => resetByte a
  | (k, b) :: m, a => if k = a then b else Memory.byte m a

/-- The canonical form: addresses strictly rising, all inside the address space, no entry equal to what an unlisted
address reads as. -/
abbrev Memory.wf (m : Memory) : Prop :=
  m.Pairwise (fun c d => c.1 < d.1) ∧ ∀ c ∈ m, c.1 < 0x1000 ∧ c.2 ≠ resetByte c.1

/-- The entries of every address but `a`: address `a` reads as reset left it. -/
def Memory.without (m : Memory) (a : Nat) : Memory := m.filter fun c => c.1 != a

/-- An entry put before the first entry of a higher address. -/
def Memory.insertEntry (a : Nat) (b : Byte) : Memory → Memory
  | [] => [(a, b)]
  | c :: m => if a < c.1 then (a, b) :: c :: m else c :: Memory.insertEntry a b m

/-- `mem[a] <- b`, keeping the canonical form (R53). -/
def Memory.write (m : Memory) (a : Nat) (b : Byte) : Memory :=
  if b = resetByte a then m.without a else (m.without a).insertEntry a b

/-- The bytes at `a`, `a + 1`, … are written in turn. -/
def Memory.writeBytes : Memory → Nat → List Byte → Memory
  | m, _, [] => m
  | m, a, b :: bs => Memory.writeBytes (Memory.write m a b) (a + 1) bs

/-- The bytes at `a`, …, `a + len - 1`. -/
def Memory.readBytes (m : Memory) (a len : Nat) : List Byte := (List.range len).map fun k => m.byte (a + k)

/-- `MemRead(addr, 1)`: OutOfBounds(addr) if `addr > 0xFFF`, else the byte (R52). -/
def Memory.read (m : Memory) (addr : Nat) : Except Nat Byte :=
  if addr > 0xFFF then .error addr else .ok (m.byte addr)

/-- The check of a whole range of `len` bytes from `base` (R56): the lowest address of it above 0xFFF, if any. -/
def rangeError (base len : Nat) : Option Nat :=
  if 0 < len ∧ base + len - 1 > 0xFFF then some (max base 0x1000) else none

/-- Read `len` bytes from `base`, the range checked first (R52, R56). -/
def Memory.load (m : Memory) (base len : Nat) : Except Nat (List Byte) :=
  match rangeError base len with
  | some addr => .error addr
  | none => .ok (m.readBytes base len)

/-- Write bytes from `base`, the range checked first (R53, R56). -/
def Memory.store (m : Memory) (base : Nat) (bs : List Byte) : Except Nat Memory :=
  match rangeError base bs.length with
  | some addr => .error addr
  | none => .ok (m.writeBytes base bs)

/-- The fetch of R80: the bytes at `a` and `a + 1`, big-endian; the error is the address out of bounds (R81). -/
def Memory.fetch (m : Memory) (a : Nat) : Except Nat Word :=
  match m.read a with
  | .error addr => .error addr
  | .ok hi =>
    match m.read (a + 1) with
    | .error addr => .error addr
    | .ok lo => .ok (wordOfBytes hi lo)

/-! ### Registers, stack, timers, keys (10_state.md) -/

/-- `V[r] <- b` (R9, R20). -/
def State.setReg (s : State) (r : Reg) (b : Byte) : State := { s with v := s.v.set r.val b }

/-- The result into VX first and the flag into VF second (R23, R119). -/
def State.setRegFlag (s : State) (x : Reg) (result flag : Byte) : State := (s.setReg x result).setReg VF flag

/-- The register file with `bs[k]` in place k for every k that `bs` reaches, and its own value elsewhere. -/
def fillRegs (v : Vector Byte 16) (bs : List Byte) : Vector Byte 16 := Vector.ofFn fun k => bs.getD k.val v[k.val]

/-- `V[k] <- bs[k]` for every k that `bs` reaches; the other registers keep their values (R157). -/
def State.setRegs (s : State) (bs : List Byte) : State := { s with v := fillRegs s.v bs }

/-- `PC <- a` (R9). -/
def State.setPc (s : State) (a : Word) : State := { s with pc := a }

/-- `PC <- PC + 2`: the fetch's advance (R80) and a skip's (R107). -/
def State.advance (s : State) : State := s.setPc (s.pc + 2)

/-- A skip: PC advances by an extra 2 exactly when the condition holds (R107). -/
def State.skipIf (s : State) (c : Bool) : State := if c then s.advance else s

/-- `I <- a` (R24). -/
def State.setI (s : State) (a : Word) : State := { s with i := a }

/-- `mem <- m`. -/
def State.setMem (s : State) (m : Memory) : State := { s with mem := m }

/-- `push(addr)`: none if the stack already holds 16 entries (R26, R102). -/
def State.push (s : State) (a : Word) : Option State :=
  if h : s.sp.val < 16 then
    some { s with stack := s.stack.set s.sp.val a, sp := ⟨s.sp.val + 1, by omega⟩ }
  else none

/-- `pop()`: the top entry and the state without it; none if the stack is empty (R26, R101). -/
def State.pop (s : State) : Option (Word × State) :=
  if h : s.sp.val = 0 then none
  else some (s.slot ⟨s.sp.val - 1, by omega⟩, { s with sp := ⟨s.sp.val - 1, by omega⟩ })

/-- `DT <- b` (R27). -/
def State.setDt (s : State) (b : Byte) : State := { s with dt := b }

/-- `ST <- b` (R27). -/
def State.setSt (s : State) (b : Byte) : State := { s with st := b }

/-- `WAIT <- b` (R29). -/
def State.setWait (s : State) (b : Bool) : State := { s with wait := b }

/-- The random source moves on to its next draw (R138, log 4). -/
def State.nextDraw (s : State) : State := { s with draws := s.draws + 1 }

/-! ### Framebuffer (43_display.md) -/

/-- Every cell 0 (R170). -/
def Framebuffer.blank : Framebuffer := Vector.replicate 32 (Vector.replicate 64 false)

/-- `FB[x][y] <- b` (R9, R30). -/
def Framebuffer.setCell (fb : Framebuffer) (x : Fin 64) (y : Fin 32) (b : Bool) : Framebuffer :=
  fb.set y.val (fb[y.val].set x.val b)

/-- A set sprite bit falls on a cell: the cell is XORed with 1 and the collision is noted (R171, R172). -/
def plot (p : CollisionRule) (acc : Framebuffer × Bool) (x : Fin 64) (y : Fin 32) : Framebuffer × Bool :=
  (acc.1.setCell x y (!acc.1.cell x y), collide p acc.2 (acc.1.cell x y))

/-- The pixel at column offset `c` of a sprite row (R171, R173). -/
def drawPixel (p : CollisionRule) (row : Byte) (x0 : Nat) (y : Fin 32) (acc : Framebuffer × Bool) (c : Nat) :
    Framebuffer × Bool :=
  if spritePixel row c then plot p acc (column (x0 + c)) y else acc

/-- One row of a sprite, column offsets 0 to 7 in turn (R171). -/
def drawRow (p : CollisionRule) (row : Byte) (x0 : Nat) (y : Fin 32) (acc : Framebuffer × Bool) :
    Framebuffer × Bool :=
  (List.range 8).foldl (drawPixel p row x0 y) acc

/-- The rows of a sprite in turn, the first at row coordinate `y0` (R171, R173). -/
def drawRows (p : CollisionRule) (x0 : Nat) : Nat → List Byte → Framebuffer × Bool → Framebuffer × Bool
  | _, [], acc => acc
  | y0, row :: rows, acc => drawRows p x0 (y0 + 1) rows (drawRow p row x0 (rowOf y0) acc)

/-- A new framebuffer, marked dirty (R31). -/
def State.setScreen (s : State) (fb : Framebuffer) : State := { s with fb := fb, dirty := true }

/-! ### Fatal errors (60_exceptions.md)

There is no return from an error (R216): the only way out of one is the host's Reset (`State.restart` in
Machine/Transactions.lean). -/

/-- The code of an error kind (R210). -/
def ErrorKind.code : ErrorKind → Nat
  | .illegalInstruction => 1
  | .outOfBounds => 2
  | .stackOverflow => 3
  | .stackUnderflow => 4
  | .invalidRom => 5

/-- The field `code` of the error record (R212). -/
def ErrorRecord.code (r : ErrorRecord) : Nat := r.kind.code

/-- Taking a fatal error raised by the instruction fetched from `a` (R212, R213): FAULT is written, PC is `a`,
and nothing else changes. `s` is the state before any write of the step but the fetch's to PC. -/
def State.takeError (s : State) (kind : ErrorKind) (a : Word) (opcode : Option Word) (addr : Option Nat) : State :=
  { s with pc := a, fault := some ⟨kind, a, opcode, addr⟩ }

/-- `raise E(info)` in the meaning of instruction `i` (R10, R213): PC holds `a + 2` there, and the fetched word is
the instruction's own (logs 2, 3). -/
def raise (kind : ErrorKind) (i : Instr) (addr : Option Nat) (s : State) : Result :=
  .next (s.takeError kind (s.pc - 2) (some (encode i)) addr)

/-- The state with the two bytes of a word stored where the next step fetches, and nothing that keeps the next step
from fetching there (log 9). -/
def State.placeWord (s : State) (op : Word) : State :=
  let a := if s.pc.toNat ≤ 0xFFE then s.pc else 0x200#16
  { s with mem := s.mem.writeBytes a.toNat (wordBytes op), pc := a, fault := none }

end Sys2Proof.Machine
end

