-- ==== Sys2Proof/Machine/Alu.lean ====
section
/-! DEFINITION. Register arithmetic and logic (spec 41_alu.md). None of these changes PC beyond the fetch's advance,
none can raise an error; operands are read before any write, the result is written first and the flag second (R119). -/

namespace Sys2Proof.Machine

/-- LD_imm (R120). -/
def execLdImm (x : Reg) (nn : Byte) (s : State) : Result := .next (s.setReg x nn)

/-- ADD_imm (R121): no flag. -/
def execAddImm (x : Reg) (nn : Byte) (s : State) : Result :=
  .next (s.setReg x (trunc8 ((s.reg x).toNat + nn.toNat)))

/-- LD_reg (R122). -/
def execLdReg (x y : Reg) (s : State) : Result := .next (s.setReg x (s.reg y))

/-- OR (R123): no flag. -/
def execOr (x y : Reg) (s : State) : Result := .next (s.setReg x (s.reg x ||| s.reg y))

/-- AND (R124): no flag. -/
def execAnd (x y : Reg) (s : State) : Result := .next (s.setReg x (s.reg x &&& s.reg y))

/-- XOR (R125): no flag. -/
def execXor (x y : Reg) (s : State) : Result := .next (s.setReg x (s.reg x ^^^ s.reg y))

/-- ADD_reg (R126). -/
def execAddReg (x y : Reg) (s : State) : Result :=
  let vx := s.reg x
  let vy := s.reg y
  .next (s.setRegFlag x (trunc8 (vx.toNat + vy.toNat)) (carryFlag vx vy))

/-- The exact difference of two bytes, reduced modulo 256 (R118). -/
def subtract8 (a b : Byte) : Byte := trunc8 (a.toNat + 256 - b.toNat)

/-- SUB (R127). -/
def execSub (x y : Reg) (s : State) : Result :=
  let vx := s.reg x
  let vy := s.reg y
  .next (s.setRegFlag x (subtract8 vx vy) (differenceFlag params.subFlag vx vy))

/-- SHR (R128): y is decoded but not read. -/
def execShr (x _y : Reg) (s : State) : Result :=
  let vx := s.reg x
  .next (s.setRegFlag x (vx >>> 1) (shiftRightFlag vx))

/-- SUBN (R129). -/
def execSubn (x y : Reg) (s : State) : Result :=
  let vx := s.reg x
  let vy := s.reg y
  .next (s.setRegFlag x (subtract8 vy vx) (differenceFlag params.subFlag vy vx))

/-- SHL (R130): y is decoded but not read. -/
def execShl (x _y : Reg) (s : State) : Result :=
  let vx := s.reg x
  .next (s.setRegFlag x (vx <<< 1) (shiftLeftFlag params.shlFlag vx))

/-- RND for one drawn byte (R138, R223). -/
def rndWith (draw : Byte) (x : Reg) (nn : Byte) (s : State) : State := (s.setReg x (draw &&& nn)).nextDraw

/-- RND (R138): the draw is a free byte, a fresh one at every execution. -/
def execRnd (x : Reg) (nn : Byte) (s : State) : Result := .next (rndWith (Config.randomByte s.draws) x nn s)

end Sys2Proof.Machine
end

