-- ==== Sys2Proof/Machine/Display.lean ====
section
/-! DEFINITION. The framebuffer instructions (spec 43_display.md). -/

namespace Sys2Proof.Machine

/-- CLS (R170): DIRTY is set even when every cell was already 0. -/
def execCls (s : State) : Result := .next (s.setScreen Framebuffer.blank)

/-- DRW (R171 to R174): the sprite bytes are read with the range checked, every set bit is XORed in, then VF. -/
def execDrw (x y : Reg) (n : Nat) (s : State) : Result :=
  let x0 := (s.reg x).toNat % 64
  let y0 := (s.reg y).toNat % 32
  match s.mem.load (s.effAddr 0) n with
  | .error addr => raise .outOfBounds (.drw x y n) (some addr) s
  | .ok rows =>
    let drawn := drawRows params.collision x0 y0 rows (s.fb, false)
    .next ((s.setScreen drawn.1).setReg VF (flagOf drawn.2))

end Sys2Proof.Machine
end

