-- ==== Sys2Proof/Machine/Flow.lean ====
section
/-! DEFINITION. Control transfer (spec 40_flow.md). On entry PC = a + 2, where `a` is the instruction's address. -/

namespace Sys2Proof.Machine

/-- JP (R100). -/
def execJp (nnn : Addr) (s : State) : Result := .next (s.setPc (zext16 nnn))

/-- RET (R101). -/
def execRet (s : State) : Result :=
  match s.pop with
  | none => raise .stackUnderflow .ret none s
  | some (a, t) => .next (t.setPc a)

/-- CALL (R102): the pushed value is PC = a + 2 (C4). -/
def execCall (nnn : Addr) (s : State) : Result :=
  match s.push s.pc with
  | none => raise .stackOverflow (.call nnn) none s
  | some t => .next (t.setPc (zext16 nnn))

/-- SE_imm (R103). -/
def execSeImm (x : Reg) (nn : Byte) (s : State) : Result := .next (s.skipIf (s.reg x == nn))

/-- SNE_imm (R104). -/
def execSneImm (x : Reg) (nn : Byte) (s : State) : Result := .next (s.skipIf (s.reg x != nn))

/-- SE_reg (R105). -/
def execSeReg (x y : Reg) (s : State) : Result := .next (s.skipIf (s.reg x == s.reg y))

/-- SNE_reg (R106). -/
def execSneReg (x y : Reg) (s : State) : Result := .next (s.skipIf (s.reg x != s.reg y))

end Sys2Proof.Machine
end

