-- ==== Sys2Proof/Machine/Index.lean ====
section
/-! DEFINITION. The index register, the font lookup, loads and stores (spec 42_index_memory.md). -/

namespace Sys2Proof.Machine

/-- LD_I (R150). -/
def execLdI (nnn : Addr) (s : State) : Result := .next (s.setI (zext16 nnn))

/-- LD_I_V0 (R151, C13): I, not PC. -/
def execLdIV0 (nnn : Addr) (s : State) : Result := .next (s.setI (trunc16 (nnn.toNat + (s.reg 0).toNat)))

/-- ADD_I_Vx (R152): the exact sum must fit I's 16 bits. -/
def execAddIVx (x : Reg) (s : State) : Result :=
  let sum := s.i.toNat + (s.reg x).toNat
  if sum > 0xFFFF then raise .outOfBounds (.addIVx x) (some sum) s
  else .next (s.setI (trunc16 sum))

/-- LD_F_Vx (R153): VX must be a hex digit; no memory is read. -/
def execLdFVx (x : Reg) (s : State) : Result :=
  match digitOf (s.reg x) with
  | none => raise .outOfBounds (.ldFVx x) (some (s.reg x).toNat) s
  | some d => .next (s.setI (glyphAddr d))

/-- LD_B_Vx (R155). -/
def execLdBVx (x : Reg) (s : State) : Result :=
  match s.mem.store (s.effAddr 0) (bcdDigits (s.reg x)) with
  | .error addr => raise .outOfBounds (.ldBVx x) (some addr) s
  | .ok m => .next (s.setMem m)

/-- LD_mI_Vx (R156): I is unchanged. -/
def execLdMIVx (x : Reg) (s : State) : Result :=
  match s.mem.store (s.effAddr 0) (s.regsUpTo x) with
  | .error addr => raise .outOfBounds (.ldMIVx x) (some addr) s
  | .ok m => .next (s.setMem m)

/-- LD_Vx_mI (R157): I is unchanged. -/
def execLdVxMI (x : Reg) (s : State) : Result :=
  match s.mem.load (s.effAddr 0) (x.val + 1) with
  | .error addr => raise .outOfBounds (.ldVxMI x) (some addr) s
  | .ok bs => .next (s.setRegs bs)

end Sys2Proof.Machine
end

