-- ==== Sys2Proof/Machine/Keys.lean ====
section
/-! DEFINITION. The key and timer instructions (spec 44_keys_timers.md). -/

namespace Sys2Proof.Machine

/-- SKP (R190): VX must be a key index. -/
def execSkp (x : Reg) (s : State) : Result :=
  match digitOf (s.reg x) with
  | none => raise .outOfBounds (.skp x) (some (s.reg x).toNat) s
  | some k => .next (s.skipIf (s.key k))

/-- SKNP (R191): VX must be a key index. -/
def execSknp (x : Reg) (s : State) : Result :=
  match digitOf (s.reg x) with
  | none => raise .outOfBounds (.sknp x) (some (s.reg x).toNat) s
  | some k => .next (s.skipIf (!s.key k))

/-- LD_Vx_K (R192): with no key pressed PC goes back to this instruction and WAIT is set; else the least pressed key
is loaded and WAIT is cleared. -/
def execLdVxK (x : Reg) (s : State) : Result :=
  match s.firstKey with
  | some k => .next ((s.setReg x (trunc8 k.val)).setWait false)
  | none => .next ((s.setPc (s.pc - 2)).setWait true)

/-- LD_Vx_DT (R193). -/
def execLdVxDt (x : Reg) (s : State) : Result := .next (s.setReg x s.dt)

/-- LD_DT_Vx (R194). -/
def execLdDtVx (x : Reg) (s : State) : Result := .next (s.setDt (s.reg x))

/-- LD_ST_Vx (R195). -/
def execLdStVx (x : Reg) (s : State) : Result := .next (s.setSt (s.reg x))

end Sys2Proof.Machine
end

