-- ==== Sys2Proof/Machine/Step.lean ====
section
/-! DEFINITION. One step of CORE (spec 30_encoding.md R80). -/

namespace Sys2Proof.Machine

/-- `Step()` (R80): nothing once FAULT is set (R214); else fetch, decode and execute, with the errors of the fetch (R81)
and of the decode (R84) taken where they arise (R215). -/
def step (s : State) : Host.Outcome State Fault Refusal :=
  match s.fault with
  | some _ => .next s
  | none =>
    match s.mem.fetch s.pc.toNat with
    | .error addr => .next (s.takeError .outOfBounds s.pc none (some addr))
    | .ok op =>
      match decodeWord op with
      | .error _ => .next (s.takeError .illegalInstruction s.pc (some op) none)
      | .ok i => exec i s.advance

/-- The state with an instruction, in the opcode table's numbering, placed where `step` fetches next (log 9). -/
def State.withFetchWord (s : State) (nbits w : Nat) : State := s.placeWord (tableWord nbits w)

end Sys2Proof.Machine
end

