-- ==== Sys2Proof/Machine/Transactions.lean ====
section
/-! DEFINITION. The host transactions of CORE (spec 60_exceptions.md §4, 70_reset_and_hazards.md §1). They come one at a
time, between steps, in any order (R226), on a running or a stopped CORE (R214). -/

namespace Sys2Proof.Machine

/-- The state `Reset(program)` puts CORE in (R250 to R252). -/
def State.resetWith (program : List Byte) : State :=
  if program.length > maxRom then
    State.reset.takeError .invalidRom State.reset.pc none (some program.length)
  else State.reset.setMem (State.reset.mem.writeBytes programBase program)

/-- `Reset(program)` of a CORE in any state (R250, D35): nothing of the old state remains. The model's counter of draws
goes on, so that a reset does not repeat the random bytes (log 4). -/
def State.restart (s : State) (program : List Byte) : State := { State.resetWith program with draws := s.draws }

/-- `SetKeys(k)` (R221): the latch is overwritten wholesale; WAIT is not touched. -/
def State.setKeys (s : State) (k : Vector Bool 16) : State := { s with keys := k }

/-- A timer after a tick: one less unless it is 0 (R222). -/
def tickTimer (b : Byte) : Byte := if b.toNat > 0 then b - 1 else b

/-- `Tick()` (R222). -/
def State.tick (s : State) : State := { s with dt := tickTimer s.dt, st := tickTimer s.st }

/-- `ConsumeFrame()` (R224): the framebuffer if it is dirty, which clears DIRTY; else nothing. -/
def State.consumeFrame (s : State) : Option Framebuffer × State :=
  if s.dirty then (some s.fb, { s with dirty := false }) else (none, s)

/-- What `Observe()` returns (R225). -/
structure Observation where
  fb : Framebuffer
  dirty : Bool
  dt : Byte
  st : Byte
  wait : Bool
  fault : Option ErrorRecord
  deriving DecidableEq, Repr

/-- `Observe()` (R225). -/
def State.observe (s : State) : Observation :=
  { fb := s.fb, dirty := s.dirty, dt := s.dt, st := s.st, wait := s.wait, fault := s.fault }

/-- The six host transactions (R220). -/
inductive Transaction
  | reset (program : List Byte)
  | setKeys (k : Vector Bool 16)
  | step
  | tick
  | consumeFrame
  | observe
  deriving DecidableEq, Repr

/-- The state after one host transaction (R220). -/
def transact (t : Transaction) (s : State) : Host.Outcome State Fault Refusal :=
  match t with
  | .reset program => .next (s.restart program)
  | .setKeys k => .next (s.setKeys k)
  | .step => Sys2Proof.Machine.step s
  | .tick => .next s.tick
  | .consumeFrame => .next s.consumeFrame.2
  | .observe => .next s

/-- Host transactions one after another, in the host's order (R226). -/
def transactAll : List Transaction → State → Host.Outcome State Fault Refusal
  | [], s => .next s
  | t :: ts, s =>
    match transact t s with
    | .next s' => transactAll ts s'
    | .fault r => .fault r
    | .refused r => .refused r

end Sys2Proof.Machine
end

