-- ==== Sys2Proof/Safety.lean ====
section
/-! DEFINITION. The terms the statements use: what a state transition leaves unchanged, the invariant of CORE's states,
and what a run without a fatal error is. -/

namespace Sys2Proof

/-- The general registers an instruction writes when it completes (R21; VF where the instruction defines a flag). -/
def Instr.writtenRegs : Instr → List Reg
  | .ldImm x _ | .addImm x _ | .ldReg x _ | .orReg x _ | .andReg x _ | .xorReg x _ | .rnd x _ => [x]
  | .addReg x _ | .sub x _ | .subn x _ | .shr x _ | .shl x _ => [x, VF]
  | .drw _ _ _ => [VF]
  | .ldVxDt x | .ldVxK x => [x]
  | .ldVxMI x => (List.finRange 16).filter fun k => decide (k ≤ x)
  | .cls | .ret | .jp _ | .call _ | .seImm _ _ | .sneImm _ _ | .seReg _ _ | .sneReg _ _ | .ldI _ | .ldIV0 _
  | .skp _ | .sknp _ | .ldDtVx _ | .ldStVx _ | .addIVx _ | .ldFVx _ | .ldBVx _ | .ldMIVx _ => []

/-- The instructions that write I when they complete (R24). -/
def Instr.writesIndex : Instr → Bool
  | .ldI _ | .ldIV0 _ | .addIVx _ | .ldFVx _ => true
  | .cls | .ret | .jp _ | .call _ | .seImm _ _ | .sneImm _ _ | .seReg _ _ | .sneReg _ _ | .ldImm _ _ | .addImm _ _
  | .ldReg _ _ | .orReg _ _ | .andReg _ _ | .xorReg _ _ | .addReg _ _ | .sub _ _ | .shr _ _ | .subn _ _ | .shl _ _
  | .rnd _ _ | .drw _ _ _ | .skp _ | .sknp _ | .ldVxDt _ | .ldVxK _ | .ldDtVx _ | .ldStVx _ | .ldBVx _ | .ldMIVx _
  | .ldVxMI _ => false

/-- The instructions that may change PC beyond the fetch's advance when they complete (R99 to R107, R190 to R192). -/
def Instr.transfersControl : Instr → Bool
  | .ret | .jp _ | .call _ | .seImm _ _ | .sneImm _ _ | .seReg _ _ | .sneReg _ _ | .skp _ | .sknp _ | .ldVxK _ => true
  | .cls | .ldImm _ _ | .addImm _ _ | .ldReg _ _ | .orReg _ _ | .andReg _ _ | .xorReg _ _ | .addReg _ _ | .sub _ _
  | .shr _ _ | .subn _ _ | .shl _ _ | .ldI _ | .ldIV0 _ | .rnd _ _ | .drw _ _ _ | .ldVxDt _ | .ldDtVx _ | .ldStVx _
  | .addIVx _ | .ldFVx _ | .ldBVx _ | .ldMIVx _ | .ldVxMI _ => false

/-- The instructions that cannot raise any error once decoded (R211). -/
def Instr.errorFree : Instr → Bool
  | .jp _ | .seImm _ _ | .sneImm _ _ | .seReg _ _ | .sneReg _ _ | .ldImm _ _ | .addImm _ _ | .ldReg _ _ | .orReg _ _
  | .andReg _ _ | .xorReg _ _ | .addReg _ _ | .sub _ _ | .shr _ _ | .subn _ _ | .shl _ _ | .ldI _ | .ldIV0 _ | .rnd _ _
  | .cls | .ldVxK _ | .ldVxDt _ | .ldDtVx _ | .ldStVx _ => true
  | .ret | .call _ | .drw _ _ _ | .skp _ | .sknp _ | .addIVx _ | .ldFVx _ | .ldBVx _ | .ldMIVx _ | .ldVxMI _ => false

end Sys2Proof

namespace Sys2Proof.Machine

/-- The pieces of state of R37, and the model's counter of draws. -/
inductive Part
  | mem | regs | index | pc | stack | dt | st | keys | wait | fb | dirty | fault | draws
  deriving DecidableEq, Repr

/-- The piece holds the same in both states; memory is compared through the read of one byte. -/
def Part.same : Part → State → State → Prop
  | .mem, s, t => ∀ a, t.mem.byte a = s.mem.byte a
  | .regs, s, t => ∀ r, t.reg r = s.reg r
  | .index, s, t => t.i = s.i
  | .pc, s, t => t.pc = s.pc
  | .stack, s, t => t.sp = s.sp ∧ ∀ k, t.slot k = s.slot k
  | .dt, s, t => t.dt = s.dt
  | .st, s, t => t.st = s.st
  | .keys, s, t => ∀ k, t.key k = s.key k
  | .wait, s, t => t.wait = s.wait
  | .fb, s, t => ∀ x y, t.fb.cell x y = s.fb.cell x y
  | .dirty, s, t => t.dirty = s.dirty
  | .fault, s, t => t.fault = s.fault
  | .draws, s, t => t.draws = s.draws

/-- Every piece of state but those listed is the same in `t` as in `s`. -/
def Unchanged (but : List Part) (s t : State) : Prop := ∀ p, p ∉ but → p.same s t

/-- Every general register but those listed is the same in `t` as in `s`. -/
def RegsUnchanged (but : List Reg) (s t : State) : Prop := ∀ r, r ∉ but → t.reg r = s.reg r

/-- Every byte of memory outside the `len` bytes from `base` reads in `t` as in `s`. -/
def BytesUnchanged (base len : Nat) (s t : State) : Prop :=
  ∀ a, ¬(base ≤ a ∧ a < base + len) → t.mem.byte a = s.mem.byte a

/-- The words of a row of the opcode table decode to that row's instruction, with the fields of R72 (R82). -/
def RowDecodes (mask pattern : Word) (instr : Word → Instr) : Prop :=
  ∀ op : Word, op &&& mask = pattern → decodeWord op = .ok (instr op)

/-- Instruction `i` raises a fatal error in the state `s` its fetch left (R212, R213): PC goes back to the address the
fetch was from, FAULT records the error, and nothing else changes. -/
def Raises (i : Instr) (kind : ErrorKind) (addr : Option Nat) (s : State) : Prop :=
  exec i s = .next { s with pc := s.pc - 2, fault := some ⟨kind, s.pc - 2, some (encode i), addr⟩ }

/-- Instruction `i` completes as a skip: PC advances by an extra 2 exactly when `c` holds, nothing else changes (R107). -/
def SkipsWhen (c : Prop) (i : Instr) (s : State) : Prop :=
  ∃ t, exec i s = .next t ∧ (c → t.pc = s.pc + 2) ∧ (¬c → t.pc = s.pc) ∧ Unchanged [.pc] s t

/-- Instruction `i` completes and writes one general register, V[x], and nothing else. -/
def WritesReg (x : Reg) (value : Nat) (i : Instr) (s : State) : Prop :=
  ∃ t, exec i s = .next t ∧ (t.reg x).toNat = value ∧ RegsUnchanged [x] s t ∧ Unchanged [.regs] s t

/-- Instruction `i` completes and writes its result into V[x] first and its flag into VF second, and nothing else:
with x = 0xF the flag stays and the result is lost (R23, R119). -/
def WritesResultAndFlag (x : Reg) (result flag : Nat) (i : Instr) (s : State) : Prop :=
  ∃ t, exec i s = .next t ∧ (x ≠ VF → (t.reg x).toNat = result) ∧ (t.reg VF).toNat = flag ∧
    RegsUnchanged [x, VF] s t ∧ Unchanged [.regs] s t

/-- Instruction `i` completes and writes I, and nothing else. -/
def WritesIndex (value : Nat) (i : Instr) (s : State) : Prop :=
  ∃ t, exec i s = .next t ∧ t.i.toNat = value ∧ Unchanged [.index] s t

/-- The sprite bit that falls on cell (cx, cy) when n rows from I are drawn at (vx mod 64, vy mod 32): the bit at the
cell's column and row offset from the start, each axis wrapping, bit 7 of a row leftmost (R173). -/
def spriteBit (s : State) (vx vy : Byte) (n : Nat) (cx : Fin 64) (cy : Fin 32) : Bool :=
  let c := (cx.val + 64 - vx.toNat % 64) % 64
  let r := (cy.val + 32 - vy.toNat % 32) % 32
  decide (r < n ∧ c < 8) && (s.mem.byte (s.effAddr r)).getLsbD (7 - c)

/-- An error record is one that CORE writes (R210, R212). -/
def ErrorRecord.WellFormed (r : ErrorRecord) : Prop :=
  match r.kind with
  | .illegalInstruction =>
    r.addr = none ∧ ∃ op, r.opcode = some op ∧ decodeWord op = .error (.illegalInstruction op)
  | .outOfBounds => ∃ a, r.addr = some a ∧ 0xF < a
  | .stackOverflow => r.addr = none ∧ ∃ nnn, r.opcode = some (encode (.call nnn))
  | .stackUnderflow => r.addr = none ∧ r.opcode = some (encode .ret)
  | .invalidRom => r.opcode = none ∧ ∃ len, r.addr = some len ∧ maxRom < len

/-- The invariant of CORE: memory in its canonical form; PC at most 0x1002 (R25) and every stack slot a value a call
can push; a recorded error that is one CORE writes and whose pc is the value PC holds (R212). -/
structure State.Inv (s : State) : Prop where
  memory : s.mem.wf
  pc : s.pc.toNat ≤ 0x1002
  stack : ∀ k, (s.slot k).toNat ≤ 0x1000
  fault : ∀ r, s.fault = some r → r.pc = s.pc ∧ r.WellFormed

/-- CORE runs: no fatal error is recorded (R32). -/
def State.Running (s : State) : Prop := s.fault = none

/-- A host schedule ends with CORE running. A fatal error stays until a reset (R214), so one without a reset in it
raises none on the way. -/
def SafeRun (ts : List Transaction) (s : State) : Prop := ∃ t, transactAll ts s = .next t ∧ t.Running

end Sys2Proof.Machine
end

