-- ==== Sys2Proof/Certificates/Slice0/Obligations.lean ====
section
/-! DEFINITION. The statements for the provers. `exec i s` is stated at the state `s` the fetch left: PC is a + 2 there, for
an instruction fetched from a (spec 00_scope.md R13). A statement about a free byte holds for every value it can have.
A docstring names the decisions (D<n>, the spec's own choices of 92_eei_decisions.md) its statement rests on: `Errors`
stands for D16, D17 and D34 (what a fatal error leaves and records; log 15), `Selectors` for D4 (the selector values of
groups 0x8, 0xE and 0xF; log 11). -/

open Sys2Proof Sys2Proof.Machine

/-! ### Encoding -/

/-- Decoding the word, or the bytes, of a well-formed instruction gives that instruction, every operand at every value
its field admits (R71, R72, R82). [Selectors] -/
def Obligations.DecodeOfEncode : Prop :=
  ∀ i : Instr, i.wf = true →
    decodeWord (encode i) = .ok i ∧ ∀ rest, decode (wordBytes (encode i) ++ rest) = .ok (i, rest)

/-- A word that decodes is the word of the instruction it decodes to, and that instruction is well-formed (R72, R82). [Selectors] -/
def Obligations.EncodeOfDecode : Prop :=
  ∀ (op : Word) (i : Instr), decodeWord op = .ok i → i.wf = true ∧ encode i = op

/-- R82: a word decodes to an instruction of the one row of the opcode table it matches, or matches no row and is illegal.
R82's ground is the spec's own inference from the table's columns. [Selectors; D2; D3] -/
def Obligations.DecodeFollowsTable : Prop :=
  ∀ op : Word,
    (∃ i, decodeWord op = .ok i ∧ i.row ∈ opcodeTable ∧ i.row.matchesWord op = true ∧
      ∀ r ∈ opcodeTable, r.matchesWord op = true → r = i.row) ∨
    (decodeWord op = .error (.illegalInstruction op) ∧ ∀ r ∈ opcodeTable, r.matchesWord op = false)

/-- R84: the illegal words are exactly those of its five families (by the spec's own decisions D2 and D3). -/
def Obligations.IllegalWordsAreTheFamilies : Prop :=
  ∀ op : Word,
    decodeWord op = .error (.illegalInstruction op) ↔
      (op.toNat ≤ 0x0FFF ∧ op ≠ 0x00E0 ∧ op ≠ 0x00EE) ∨
      ((op.toNat / 0x1000 = 0x5 ∨ op.toNat / 0x1000 = 0x9) ∧ op.toNat % 0x10 ≠ 0) ∨
      (op.toNat / 0x1000 = 0x8 ∧ op.toNat % 0x10 ∈ [0x8, 0x9, 0xA, 0xB, 0xC, 0xD, 0xF]) ∨
      (op.toNat / 0x1000 = 0xE ∧ op.toNat % 0x100 ∉ [0x9E, 0xA1]) ∨
      (op.toNat / 0x1000 = 0xF ∧ op.toNat % 0x100 ∉ [0x07, 0x0A, 0x15, 0x18, 0x1E, 0x29, 0x33, 0x55, 0x65])

/-- Words written out in 95_test_vectors.md decode to the instructions they stand for there. [Selectors; D2; D3] -/
def Obligations.SampleWordsDecode : Prop :=
  decodeWord 0x2300 = .ok (.call 0x300) ∧ decodeWord 0x8CD5 = .ok (.sub 0xC 0xD) ∧
  decodeWord 0x8FFE = .ok (.shl 0xF 0xF) ∧ decodeWord 0xA2F0 = .ok (.ldI 0x2F0) ∧
  decodeWord 0xC30F = .ok (.rnd 3 0x0F) ∧ decodeWord 0xD125 = .ok (.drw 1 2 5) ∧
  decodeWord 0xE5A1 = .ok (.sknp 5) ∧ decodeWord 0xF155 = .ok (.ldMIVx 1) ∧
  decodeWord 0x5121 = .error (.illegalInstruction 0x5121) ∧ decodeWord 0x0000 = .error (.illegalInstruction 0x0000)

/-! ### The step -/

/-- R80: nothing once FAULT is set; a fetch beyond memory raises OutOfBounds for the first byte that is missing; a word
that decodes is executed with PC at a + 2; an illegal word raises IllegalInstruction. [Errors] -/
def Obligations.StepFetchesDecodesExecutes : Prop :=
  ∀ s : State,
    (∀ r, s.fault = some r → step s = .next s) ∧
    (s.fault = none →
      (0xFFF < s.pc.toNat →
        step s = .next { s with fault := some ⟨.outOfBounds, s.pc, none, some s.pc.toNat⟩ }) ∧
      (s.pc.toNat = 0xFFF →
        step s = .next { s with fault := some ⟨.outOfBounds, s.pc, none, some 0x1000⟩ }) ∧
      ∀ op : Word, s.pc.toNat ≤ 0xFFE →
        op.toNat = 256 * (s.mem.byte s.pc.toNat).toNat + (s.mem.byte (s.pc.toNat + 1)).toNat →
          (∀ i, decodeWord op = .ok i → step s = exec i { s with pc := s.pc + 2 }) ∧
          (decodeWord op = .error (.illegalInstruction op) →
            step s = .next { s with fault := some ⟨.illegalInstruction, s.pc, some op, none⟩ }))

/-- R213, R215, R232: every step of a running CORE answers a next state; either CORE still runs, or the step changed
nothing but FAULT, which records where the step fetched from and what it fetched (the precise errors of D16, D17, D34). -/
def Obligations.StepAdvancesOrFlagsPrecisely : Prop :=
  ∀ s : State, s.Running → ∃ t, step s = .next t ∧
    (t.Running ∨
      ∃ r, t = { s with fault := some r } ∧ r.pc = s.pc ∧ r.WellFormed ∧
        (∀ op, s.mem.fetch s.pc.toNat = .ok op → r.opcode = some op) ∧
        (∀ a, s.mem.fetch s.pc.toNat = .error a → r.kind = .outOfBounds ∧ r.opcode = none ∧ r.addr = some a))

/-- R214: once FAULT is set any number of steps, with no host transaction between them (log 16), change nothing; the host's ticks, key updates and frame consumption still
act as on a running CORE (D27) and leave FAULT alone; a reset with a program that fits ends it. [D35] -/
def Obligations.StoppedUntilReset : Prop :=
  ∀ (s : State) (r : ErrorRecord), s.fault = some r →
    (∀ n, core.run n s = .next s) ∧
    (∃ t, transact .tick s = .next t ∧ t.fault = some r ∧ t.dt.toNat = s.dt.toNat - 1 ∧ t.st.toNat = s.st.toNat - 1) ∧
    (∀ k : Vector Bool 16, ∃ t, transact (.setKeys k) s = .next t ∧ t.fault = some r ∧ t.keys = k) ∧
    (∃ t, transact .consumeFrame s = .next t ∧ t.fault = some r ∧ t.dirty = false) ∧
    (∀ program : List Byte, program.length ≤ 3584 → ∃ t, transact (.reset program) s = .next t ∧ t.Running)

/-! ### Control transfer (40_flow.md) -/

/-- R100: a jump sets PC to nnn exactly; from 0xFFF the next fetch raises OutOfBounds(0x1000). [Errors] -/
def Obligations.JumpSetsProgramCounter : Prop :=
  RowDecodes 0xF000 0x1000 (fun op => .jp (fieldNNN op)) ∧
  ∀ (nnn : Addr) (s : State), ∃ t, exec (.jp nnn) s = .next t ∧ t.pc.toNat = nnn.toNat ∧ Unchanged [.pc] s t ∧
    (nnn = 0xFFF → s.fault = none →
      step t = .next { t with fault := some ⟨.outOfBounds, 0xFFF, none, some 0x1000⟩ })

/-- R102: a call pushes PC = a + 2 into slot SP and jumps; with 16 entries in use it raises StackOverflow. [Errors; D31] -/
def Obligations.CallPushesReturnAddress : Prop :=
  RowDecodes 0xF000 0x2000 (fun op => .call (fieldNNN op)) ∧
  ∀ (nnn : Addr) (s : State),
    (s.sp.val < 16 → ∃ t, exec (.call nnn) s = .next t ∧ t.pc.toNat = nnn.toNat ∧ t.sp.val = s.sp.val + 1 ∧
      (∀ k, t.slot k = if k.val = s.sp.val then s.pc else s.slot k) ∧ Unchanged [.pc, .stack] s t) ∧
    (s.sp.val = 16 → Raises (.call nnn) .stackOverflow none s)

/-- R101: a return takes the top entry into PC and leaves every slot's value; with an empty stack it raises
StackUnderflow. [Errors; D31] -/
def Obligations.ReturnPopsStack : Prop :=
  RowDecodes 0xFFFF 0x00EE (fun _ => .ret) ∧
  ∀ s : State,
    (s.sp.val = 0 → Raises .ret .stackUnderflow none s) ∧
    (∀ k : Fin 16, s.sp.val = k.val + 1 → ∃ t, exec .ret s = .next t ∧ t.pc = s.slot k ∧ t.sp.val = k.val ∧
      (∀ j, t.slot j = s.slot j) ∧ Unchanged [.pc, .stack] s t)

/-- A call followed by a return, fetched from anywhere, resumes after the call with SP as it was (C4, L1-3). -/
def Obligations.ReturnResumesAfterCall : Prop :=
  ∀ (nnn : Addr) (a : Word) (s : State), s.sp.val < 16 →
    ∃ t u, exec (.call nnn) s = .next t ∧ exec .ret { t with pc := a } = .next u ∧
      u.pc = s.pc ∧ u.sp = s.sp ∧ (∀ k : Fin 16, k.val < s.sp.val → u.slot k = s.slot k) ∧ Unchanged [.pc, .stack] s u

/-- R103, R104: the skips on a constant. -/
def Obligations.SkipsOnConstant : Prop :=
  RowDecodes 0xF000 0x3000 (fun op => .seImm (fieldX op) (fieldNN op)) ∧
  RowDecodes 0xF000 0x4000 (fun op => .sneImm (fieldX op) (fieldNN op)) ∧
  ∀ (x : Reg) (nn : Byte) (s : State),
    SkipsWhen (s.reg x = nn) (.seImm x nn) s ∧ SkipsWhen (s.reg x ≠ nn) (.sneImm x nn) s

/-- R105, R106: the skips on two registers; the fourth nibble is 0 by the spec's decision D3. -/
def Obligations.SkipsOnRegisters : Prop :=
  RowDecodes 0xF00F 0x5000 (fun op => .seReg (fieldX op) (fieldY op)) ∧
  RowDecodes 0xF00F 0x9000 (fun op => .sneReg (fieldX op) (fieldY op)) ∧
  ∀ (x y : Reg) (s : State),
    SkipsWhen (s.reg x = s.reg y) (.seReg x y) s ∧ SkipsWhen (s.reg x ≠ s.reg y) (.sneReg x y) s

/-- R190, R191: the skips on a key; a VX that is no key index raises OutOfBounds(VX) by the spec's decision D12. [Errors; Selectors; D5] -/
def Obligations.SkipsOnKey : Prop :=
  RowDecodes 0xF0FF 0xE09E (fun op => .skp (fieldX op)) ∧
  RowDecodes 0xF0FF 0xE0A1 (fun op => .sknp (fieldX op)) ∧
  ∀ (x : Reg) (s : State),
    (∀ k : Fin 16, (s.reg x).toNat = k.val →
      SkipsWhen (s.key k = true) (.skp x) s ∧ SkipsWhen (s.key k = false) (.sknp x) s) ∧
    (0xF < (s.reg x).toNat →
      Raises (.skp x) .outOfBounds (some (s.reg x).toNat) s ∧ Raises (.sknp x) .outOfBounds (some (s.reg x).toNat) s)

/-! ### Register arithmetic and logic (41_alu.md) -/

/-- R120, R121: a constant is loaded, or added modulo 256, with no flag. -/
def Obligations.ConstantLoadAndAdd : Prop :=
  RowDecodes 0xF000 0x6000 (fun op => .ldImm (fieldX op) (fieldNN op)) ∧
  RowDecodes 0xF000 0x7000 (fun op => .addImm (fieldX op) (fieldNN op)) ∧
  ∀ (x : Reg) (nn : Byte) (s : State),
    WritesReg x nn.toNat (.ldImm x nn) s ∧
    WritesReg x (((s.reg x).toNat + nn.toNat) % 256) (.addImm x nn) s

/-- R122 to R125: copy, OR, AND and XOR, bit by bit; VF unchanged unless it is VX (the spec's decision D9). [Selectors] -/
def Obligations.CopyAndLogic : Prop :=
  RowDecodes 0xF00F 0x8000 (fun op => .ldReg (fieldX op) (fieldY op)) ∧
  RowDecodes 0xF00F 0x8001 (fun op => .orReg (fieldX op) (fieldY op)) ∧
  RowDecodes 0xF00F 0x8002 (fun op => .andReg (fieldX op) (fieldY op)) ∧
  RowDecodes 0xF00F 0x8003 (fun op => .xorReg (fieldX op) (fieldY op)) ∧
  ∀ (x y : Reg) (s : State),
    WritesReg x (s.reg y).toNat (.ldReg x y) s ∧
    (∃ t, exec (.orReg x y) s = .next t ∧ RegsUnchanged [x] s t ∧ Unchanged [.regs] s t ∧
      ∀ k, (t.reg x).getLsbD k = ((s.reg x).getLsbD k || (s.reg y).getLsbD k)) ∧
    (∃ t, exec (.andReg x y) s = .next t ∧ RegsUnchanged [x] s t ∧ Unchanged [.regs] s t ∧
      ∀ k, (t.reg x).getLsbD k = ((s.reg x).getLsbD k && (s.reg y).getLsbD k)) ∧
    (∃ t, exec (.xorReg x y) s = .next t ∧ RegsUnchanged [x] s t ∧ Unchanged [.regs] s t ∧
      ∀ k, (t.reg x).getLsbD k = ((s.reg x).getLsbD k ^^ (s.reg y).getLsbD k))

/-- R126: the sum modulo 256, and VF = 1 iff the sum is above 0xFF. [Selectors] -/
def Obligations.AddSetsCarry : Prop :=
  RowDecodes 0xF00F 0x8004 (fun op => .addReg (fieldX op) (fieldY op)) ∧
  ∀ (x y : Reg) (s : State),
    WritesResultAndFlag x (((s.reg x).toNat + (s.reg y).toNat) % 256)
      (if 0xFF < (s.reg x).toNat + (s.reg y).toNat then 1 else 0) (.addReg x y) s

/-- R127, R129: the differences modulo 256, and VF = 1 iff a borrow occurred (the spec's decision D6). [Selectors] -/
def Obligations.SubtractSetsBorrow : Prop :=
  RowDecodes 0xF00F 0x8005 (fun op => .sub (fieldX op) (fieldY op)) ∧
  RowDecodes 0xF00F 0x8007 (fun op => .subn (fieldX op) (fieldY op)) ∧
  ∀ (x y : Reg) (s : State),
    WritesResultAndFlag x (((s.reg x).toNat + 256 - (s.reg y).toNat) % 256)
      (if (s.reg x).toNat < (s.reg y).toNat then 1 else 0) (.sub x y) s ∧
    WritesResultAndFlag x (((s.reg y).toNat + 256 - (s.reg x).toNat) % 256)
      (if (s.reg y).toNat < (s.reg x).toNat then 1 else 0) (.subn x y) s

/-- R128: VX is halved, VF is the bit shifted out; VY is not read. [Selectors] -/
def Obligations.ShiftRightSetsLowBit : Prop :=
  RowDecodes 0xF00F 0x8006 (fun op => .shr (fieldX op) (fieldY op)) ∧
  ∀ (x y : Reg) (s : State),
    WritesResultAndFlag x ((s.reg x).toNat / 2) ((s.reg x).toNat % 2) (.shr x y) s

/-- R130: VX is doubled modulo 256, VF is the raw bit 7, 0x80 or 0x00 (the spec's decision D7); VY is not read. [Selectors] -/
def Obligations.ShiftLeftSetsRawHighBit : Prop :=
  RowDecodes 0xF00F 0x800E (fun op => .shl (fieldX op) (fieldY op)) ∧
  ∀ (x y : Reg) (s : State),
    WritesResultAndFlag x (2 * (s.reg x).toNat % 256) (if 0x80 ≤ (s.reg x).toNat then 0x80 else 0) (.shl x y) s

/-- R138: VX is a draw masked by nn, and the next draw is another one. The draw is a free value (D25, log 4): the
statement names no byte, and for every byte the draw can be, VX is that byte masked. -/
def Obligations.RandomByteIsMasked : Prop :=
  RowDecodes 0xF000 0xC000 (fun op => .rnd (fieldX op) (fieldNN op)) ∧
  ∀ (x : Reg) (nn : Byte) (s : State),
    (∃ t, exec (.rnd x nn) s = .next t ∧ t = rndWith (Config.randomByte s.draws) x nn s ∧ t.draws = s.draws + 1) ∧
    ∀ draw : Byte, (∀ k, ((rndWith draw x nn s).reg x).getLsbD k = (draw.getLsbD k && nn.getLsbD k)) ∧
      RegsUnchanged [x] s (rndWith draw x nn s) ∧ Unchanged [.regs, .draws] s (rndWith draw x nn s)

/-! ### Index, loads and stores (42_index_memory.md) -/

/-- R150, R151: I is loaded with nnn, or with nnn + V0; BNNN does not change PC. -/
def Obligations.IndexLoads : Prop :=
  RowDecodes 0xF000 0xA000 (fun op => .ldI (fieldNNN op)) ∧
  RowDecodes 0xF000 0xB000 (fun op => .ldIV0 (fieldNNN op)) ∧
  ∀ (nnn : Addr) (s : State),
    WritesIndex nnn.toNat (.ldI nnn) s ∧ WritesIndex (nnn.toNat + (s.reg 0).toNat) (.ldIV0 nnn) s

/-- R152: VX is added to I with no flag; a sum above 0xFFFF raises OutOfBounds(sum) by the spec's decision D14. [Errors; Selectors] -/
def Obligations.IndexAddChecksOverflow : Prop :=
  RowDecodes 0xF0FF 0xF01E (fun op => .addIVx (fieldX op)) ∧
  ∀ (x : Reg) (s : State),
    (s.i.toNat + (s.reg x).toNat ≤ 0xFFFF → WritesIndex (s.i.toNat + (s.reg x).toNat) (.addIVx x) s) ∧
    (0xFFFF < s.i.toNat + (s.reg x).toNat →
      Raises (.addIVx x) .outOfBounds (some (s.i.toNat + (s.reg x).toNat)) s)

/-- R153: I points at the glyph of digit VX; a VX that is no digit raises OutOfBounds(VX) by the spec's decision D11. [Errors; Selectors] -/
def Obligations.FontLookupPointsAtGlyph : Prop :=
  RowDecodes 0xF0FF 0xF029 (fun op => .ldFVx (fieldX op)) ∧
  ∀ (x : Reg) (s : State),
    ((s.reg x).toNat ≤ 0xF → WritesIndex (5 * (s.reg x).toNat) (.ldFVx x) s) ∧
    (0xF < (s.reg x).toNat → Raises (.ldFVx x) .outOfBounds (some (s.reg x).toNat) s)

/-- R155: the three decimal digits of VX at I, I + 1, I + 2, or nothing and OutOfBounds. [Errors; Selectors; D24] -/
def Obligations.BcdStoresDigits : Prop :=
  RowDecodes 0xF0FF 0xF033 (fun op => .ldBVx (fieldX op)) ∧
  ∀ (x : Reg) (s : State),
    (s.effAddr 2 ≤ 0xFFF → ∃ t, exec (.ldBVx x) s = .next t ∧
      (t.mem.byte (s.effAddr 0)).toNat = (s.reg x).toNat / 100 ∧
      (t.mem.byte (s.effAddr 1)).toNat = (s.reg x).toNat / 10 % 10 ∧
      (t.mem.byte (s.effAddr 2)).toNat = (s.reg x).toNat % 10 ∧
      BytesUnchanged (s.effAddr 0) 3 s t ∧ Unchanged [.mem] s t) ∧
    (0xFFF < s.effAddr 2 → Raises (.ldBVx x) .outOfBounds (some (max (s.effAddr 0) 0x1000)) s)

/-- R156: V0..=VX at I, I + 1, …, or nothing and OutOfBounds; I is unchanged by the spec's decision D10. [Errors; Selectors; D24] -/
def Obligations.DumpStoresRegisters : Prop :=
  RowDecodes 0xF0FF 0xF055 (fun op => .ldMIVx (fieldX op)) ∧
  ∀ (x : Reg) (s : State),
    (s.effAddr x.val ≤ 0xFFF → ∃ t, exec (.ldMIVx x) s = .next t ∧
      (∀ k : Reg, k ≤ x → t.mem.byte (s.effAddr k.val) = s.reg k) ∧
      BytesUnchanged (s.effAddr 0) (x.val + 1) s t ∧ Unchanged [.mem] s t) ∧
    (0xFFF < s.effAddr x.val → Raises (.ldMIVx x) .outOfBounds (some (max (s.effAddr 0) 0x1000)) s)

/-- R157: V0..=VX from I, I + 1, …, or nothing and OutOfBounds; I is unchanged by the spec's decision D10. [Errors; Selectors; D24] -/
def Obligations.LoadFillsRegisters : Prop :=
  RowDecodes 0xF0FF 0xF065 (fun op => .ldVxMI (fieldX op)) ∧
  ∀ (x : Reg) (s : State),
    (s.effAddr x.val ≤ 0xFFF → ∃ t, exec (.ldVxMI x) s = .next t ∧
      (∀ k : Reg, t.reg k = if k ≤ x then s.mem.byte (s.effAddr k.val) else s.reg k) ∧ Unchanged [.regs] s t) ∧
    (0xFFF < s.effAddr x.val → Raises (.ldVxMI x) .outOfBounds (some (max (s.effAddr 0) 0x1000)) s)

/-- A dump of V0..=VX followed by a load of V0..=VX, whatever the registers hold in between, restores them
(R156, R157, R60). -/
def Obligations.LoadRestoresDump : Prop :=
  ∀ (x : Reg) (s : State) (v : Vector Byte 16), s.effAddr x.val ≤ 0xFFF →
    ∃ t u, exec (.ldMIVx x) s = .next t ∧ exec (.ldVxMI x) { t with v := v } = .next u ∧
      ∀ k : Reg, k ≤ x → u.reg k = s.reg k

/-- R62, R256: bytes dumped over the next instruction are what the very next step executes. -/
def Obligations.DumpIsSeenByNextStep : Prop :=
  ∀ (x : Reg) (s : State) (i : Instr), s.Running → 1 ≤ x.val → s.i = s.pc → s.effAddr x.val ≤ 0xFFF →
    decodeWord (wordOfBytes (s.reg 0) (s.reg 1)) = .ok i →
      ∃ t, exec (.ldMIVx x) s = .next t ∧ step t = exec i { t with pc := t.pc + 2 }

/-! ### Framebuffer (43_display.md) -/

/-- R170: every cell is 0 and DIRTY is set. -/
def Obligations.ClearBlanksScreen : Prop :=
  RowDecodes 0xFFFF 0x00E0 (fun _ => .cls) ∧
  ∀ s : State, ∃ t, exec .cls s = .next t ∧ (∀ x y, t.fb.cell x y = false) ∧ t.dirty = true ∧
    Unchanged [.fb, .dirty] s t

/-- R171, R173: every cell is XORed with the sprite bit that falls on it, wrapping at both edges; DIRTY is set; of the
registers only VF changes. Bit 7 is leftmost by the spec's decision D22. -/
def Obligations.DrawXorsSprite : Prop :=
  RowDecodes 0xF000 0xD000 (fun op => .drw (fieldX op) (fieldY op) (fieldN op)) ∧
  ∀ (x y : Reg) (n : Nat) (s : State), n ≤ 15 → (n = 0 ∨ s.effAddr (n - 1) ≤ 0xFFF) →
    ∃ t, exec (.drw x y n) s = .next t ∧
      (∀ cx cy, t.fb.cell cx cy = (s.fb.cell cx cy ^^ spriteBit s (s.reg x) (s.reg y) n cx cy)) ∧
      t.dirty = true ∧ RegsUnchanged [VF] s t ∧ Unchanged [.regs, .fb, .dirty] s t

/-- R172: after a draw VF is 1 if some cell went from 1 to 0, and 0 otherwise (the spec's decision D8). -/
def Obligations.DrawSetsCollision : Prop :=
  ∀ (x y : Reg) (n : Nat) (s : State), n ≤ 15 → (n = 0 ∨ s.effAddr (n - 1) ≤ 0xFFF) →
    ∃ t, exec (.drw x y n) s = .next t ∧
      ((∃ cx cy, s.fb.cell cx cy = true ∧ t.fb.cell cx cy = false) → t.reg VF = 1) ∧
      ((¬∃ cx cy, s.fb.cell cx cy = true ∧ t.fb.cell cx cy = false) → t.reg VF = 0)

/-- R171 with R56: a sprite byte above 0xFFF raises OutOfBounds for the lowest such address, with no cell, VF or DIRTY
changed. [Errors; D24] -/
def Obligations.DrawOutOfRangeRaises : Prop :=
  ∀ (x y : Reg) (n : Nat) (s : State), 0 < n → n ≤ 15 → 0xFFF < s.effAddr (n - 1) →
    Raises (.drw x y n) .outOfBounds (some (max (s.effAddr 0) 0x1000)) s

/-- R174: a draw of no rows, whatever I is, changes no cell, sets VF = 0 and DIRTY (the spec's decision D23). -/
def Obligations.DrawOfNoRows : Prop :=
  ∀ (x y : Reg) (s : State), ∃ t, exec (.drw x y 0) s = .next t ∧ t.reg VF = 0 ∧ t.dirty = true ∧
    RegsUnchanged [VF] s t ∧ Unchanged [.regs, .dirty] s t

/-- Drawing the same sprite twice at a place VF does not name restores every cell (L1-9). -/
def Obligations.DrawTwiceRestoresScreen : Prop :=
  ∀ (x y : Reg) (n : Nat) (s : State), x ≠ VF → y ≠ VF → n ≤ 15 → (n = 0 ∨ s.effAddr (n - 1) ≤ 0xFFF) →
    ∃ t u, exec (.drw x y n) s = .next t ∧ exec (.drw x y n) t = .next u ∧ u.fb = s.fb

/-! ### Keys and timers (44_keys_timers.md) -/

/-- R192: the least pressed key goes into VX and WAIT is cleared; with no key pressed PC goes back by 2 and WAIT is set.
That the least key is taken is the spec's decision D13. -/
def Obligations.KeyWaitLoadsLeastKey : Prop :=
  RowDecodes 0xF0FF 0xF00A (fun op => .ldVxK (fieldX op)) ∧
  ∀ (x : Reg) (s : State),
    (∀ k : Fin 16, s.key k = true → (∀ j, j < k → s.key j = false) →
      ∃ t, exec (.ldVxK x) s = .next t ∧ (t.reg x).toNat = k.val ∧ t.wait = false ∧
        RegsUnchanged [x] s t ∧ Unchanged [.regs, .wait] s t) ∧
    ((∀ k, s.key k = false) →
      ∃ t, exec (.ldVxK x) s = .next t ∧ t.pc = s.pc - 2 ∧ t.wait = true ∧ Unchanged [.pc, .wait] s t)

/-- A key wait re-executes at every step while no key is pressed, and with no host transaction between the steps (log 16)
it changes nothing but WAIT. R231 lets host ticks decrement DT and ST during the wait; `core` runs steps only. -/
def Obligations.KeyWaitRepeats : Prop :=
  ∀ (x : Reg) (s : State) (n : Nat), s.Running → s.mem.fetch s.pc.toNat = .ok (encode (.ldVxK x)) →
    (∀ k, s.key k = false) → core.run (n + 1) s = .next { s with wait := true }

/-- R193, R194, R195: the timers are read and set. -/
def Obligations.TimerMoves : Prop :=
  RowDecodes 0xF0FF 0xF007 (fun op => .ldVxDt (fieldX op)) ∧
  RowDecodes 0xF0FF 0xF015 (fun op => .ldDtVx (fieldX op)) ∧
  RowDecodes 0xF0FF 0xF018 (fun op => .ldStVx (fieldX op)) ∧
  ∀ (x : Reg) (s : State),
    WritesReg x s.dt.toNat (.ldVxDt x) s ∧
    (∃ t, exec (.ldDtVx x) s = .next t ∧ t.dt = s.reg x ∧ Unchanged [.dt] s t) ∧
    (∃ t, exec (.ldStVx x) s = .next t ∧ t.st = s.reg x ∧ Unchanged [.st] s t)

/-! ### Who writes what, over all instructions -/

/-- R27, R28, R29: only FX15 writes DT, only FX18 writes ST, only FX0A writes WAIT, and no instruction writes the key
latch. -/
def Obligations.TimersKeysWaitWriters : Prop :=
  ∀ (i : Instr) (s t : State), exec i s = .next t →
    ((∀ x, i ≠ .ldDtVx x) → t.dt = s.dt) ∧ ((∀ x, i ≠ .ldStVx x) → t.st = s.st) ∧
    ((∀ x, i ≠ .ldVxK x) → t.wait = s.wait) ∧ t.keys = s.keys

/-- R26: only 2NNN and 00EE change S and SP, and an instruction moves SP by at most one. [D31] -/
def Obligations.StackWriters : Prop :=
  ∀ (i : Instr) (s t : State), exec i s = .next t →
    ((∀ nnn, i ≠ .call nnn) → i ≠ .ret → t.sp = s.sp ∧ t.stack = s.stack) ∧
    t.sp.val ≤ s.sp.val + 1 ∧ s.sp.val ≤ t.sp.val + 1

/-- R51, R55, R31: only FX33 and FX55 write memory, only 00E0 and DXYN write the framebuffer and DIRTY, and no
instruction clears DIRTY. -/
def Obligations.MemoryAndScreenWriters : Prop :=
  ∀ (i : Instr) (s t : State), exec i s = .next t →
    ((∀ x, i ≠ .ldBVx x) → (∀ x, i ≠ .ldMIVx x) → ∀ a, t.mem.byte a = s.mem.byte a) ∧
    (i ≠ .cls → (∀ x y n, i ≠ .drw x y n) → t.fb = s.fb ∧ t.dirty = s.dirty) ∧
    (s.dirty = true → t.dirty = true)

/-- R21, R24: an instruction writes no general register but those its line of R21 names, and only ANNN, BNNN, FX1E and
FX29 write I. -/
def Obligations.RegisterWriters : Prop :=
  ∀ (i : Instr) (s t : State), exec i s = .next t →
    RegsUnchanged i.writtenRegs s t ∧ (i.writesIndex = false → t.i = s.i)

/-- R99, R118, R149: an instruction that completes and is no jump, call, return, skip or key wait leaves PC as the fetch
left it. -/
def Obligations.OnlyTransfersMoveProgramCounter : Prop :=
  ∀ (i : Instr) (s t : State), exec i s = .next t → s.Running → t.Running →
    i.transfersControl = false → t.pc = s.pc

/-- R211: the instructions it lists raise no error in any state. -/
def Obligations.ListedInstructionsRaiseNothing : Prop :=
  ∀ (i : Instr) (s : State), i.errorFree = true → ∃ t, exec i s = .next t ∧ t.fault = s.fault

/-! ### Host transactions and reset (60_exceptions.md, 70_reset_and_hazards.md) -/

/-- R222: a tick takes 1 from each timer that is not 0 and leaves a timer at 0 there; no instruction ticks: a timer changes
in one only where FX15 or FX18 sets it. -/
def Obligations.TickDecrementsTimers : Prop :=
  (∀ s : State, ∃ t, transact .tick s = .next t ∧
    t.dt.toNat = (if 0 < s.dt.toNat then s.dt.toNat - 1 else 0) ∧
    t.st.toNat = (if 0 < s.st.toNat then s.st.toNat - 1 else 0) ∧ Unchanged [.dt, .st] s t) ∧
  ∀ (i : Instr) (s t : State), exec i s = .next t →
    (t.dt = s.dt ∨ ∃ x, i = .ldDtVx x ∧ t.dt = s.reg x) ∧ (t.st = s.st ∨ ∃ x, i = .ldStVx x ∧ t.st = s.reg x)

/-- R221: the latch is overwritten wholesale; nothing else, WAIT included, is touched. -/
def Obligations.SetKeysOverwritesLatch : Prop :=
  ∀ (k : Vector Bool 16) (s : State), ∃ t, transact (.setKeys k) s = .next t ∧
    (∀ j : Fin 16, t.key j = k[j.val]) ∧ Unchanged [.keys] s t

/-- R224: a dirty framebuffer is returned once and DIRTY is cleared; a clean one is not returned and nothing changes. -/
def Obligations.FrameIsConsumedOnce : Prop :=
  ∀ s : State,
    (s.dirty = true → s.consumeFrame.1 = some s.fb ∧ s.consumeFrame.2.dirty = false ∧
      Unchanged [.dirty] s s.consumeFrame.2 ∧ s.consumeFrame.2.consumeFrame.1 = none) ∧
    (s.dirty = false → s.consumeFrame.1 = none ∧ Unchanged [] s s.consumeFrame.2) ∧
    transact .consumeFrame s = .next s.consumeFrame.2

/-- R250, R251: after a reset with a program that fits, from any state, PC is 0x200, no error is recorded, the program
stands from 0x200, the font below 0x050, and every other byte is 0x00 (the last by the spec's decision D20). [D21] -/
def Obligations.ResetLoadsProgram : Prop :=
  ∀ (program : List Byte) (s : State), program.length ≤ 3584 →
    ∃ t, transact (.reset program) s = .next t ∧ t.pc = 0x200 ∧ t.fault = none ∧
      (∀ k, k < program.length → t.mem.byte (0x200 + k) = program.getD k 0) ∧
      (∀ k, k < 0x050 → t.mem.byte k = params.font.getD k 0) ∧
      (∀ a, 0x050 ≤ a → (a < 0x200 ∨ 0x200 + program.length ≤ a) → t.mem.byte a = 0x00)

/-- R252: a program longer than 3584 bytes is refused with InvalidRom, no program byte is copied, and no step runs:
steps with no host transaction between them (log 16) change nothing. [Errors; D20] -/
def Obligations.LongProgramIsRefused : Prop :=
  ∀ (program : List Byte) (s : State), 3584 < program.length →
    ∃ t, transact (.reset program) s = .next t ∧
      t.fault = some ⟨.invalidRom, 0x200, none, some program.length⟩ ∧
      (∀ a, 0x200 ≤ a → t.mem.byte a = 0x00) ∧ ∀ n, core.run n t = .next t

/-- R35: the rest of the state after a reset is zero, false or empty, whatever it was before (the spec's decisions D19,
D32, D35; logs 4 and 7: the model's counter of draws goes on). -/
def Obligations.ResetClearsRegisters : Prop :=
  ∀ (program : List Byte) (s : State), ∃ t, transact (.reset program) s = .next t ∧
    (∀ r, t.reg r = 0) ∧ t.i = 0 ∧ t.sp.val = 0 ∧ (∀ k, t.slot k = 0) ∧ t.dt = 0 ∧ t.st = 0 ∧
    (∀ k, t.key k = false) ∧ t.wait = false ∧ (∀ x y, t.fb.cell x y = false) ∧ t.dirty = false ∧ t.draws = s.draws

/-! ### Invariants -/

/-- The state after reset meets the invariant. -/
def Obligations.ResetMeetsInvariant : Prop := State.reset.Inv

/-- Every host transaction other than a step, a reset with any program included, keeps the invariant. [Errors] -/
def Obligations.TransactionsKeepInvariant : Prop :=
  ∀ (tr : Transaction) (s t : State), tr ≠ .step → s.Inv → transact tr s = .next t → t.Inv

/-- From every state that meets the invariant a step gives a state that meets it: memory keeps its canonical form, PC
never exceeds 0x1002 (R25), a stack slot never exceeds 0x1000, and a recorded error is one CORE writes (R212). [Errors; D15; D31] -/
def Obligations.StepKeepsInvariant : Prop :=
  ∀ s t : State, s.Inv → step s = .next t → t.Inv
end

