-- ==== Sys2Proof/Laws/Decode.lean ====
section
/-! SUPPORT. The fields of an encoded word, the word from its fields, and what `op & mask` says of the fields
(spec 30_encoding.md R71, R72, R82). -/

namespace Sys2Proof

theorem bits_lt (hi lo : Nat) (op : Word) : bits hi lo op < 2 ^ (hi + 1 - lo) := Nat.mod_lt _ (by positivity)

/-! ### The fields of a word (R72), as arithmetic on its value -/

theorem fieldX_val (op : Word) : (fieldX op).val = op.toNat / 256 % 16 := by
  simp [fieldX, bits]

theorem fieldY_val (op : Word) : (fieldY op).val = op.toNat / 16 % 16 := by
  simp [fieldY, bits]

theorem fieldN_eq (op : Word) : fieldN op = op.toNat % 16 := by
  simp [fieldN, bits]

theorem fieldNN_toNat (op : Word) : (fieldNN op).toNat = op.toNat % 256 := by
  simp [fieldNN, bits]

theorem fieldNNN_toNat (op : Word) : (fieldNNN op).toNat = op.toNat % 4096 := by
  simp [fieldNNN, bits]

theorem group_eq (op : Word) : bits 15 12 op = op.toNat / 4096 % 16 := rfl

theorem lowByte_eq (op : Word) : bits 7 0 op = op.toNat % 256 := by simp [bits]

/-! ### Words and their bytes (R57) -/

theorem wordOfBytes_toNat (hi lo : Byte) : (wordOfBytes hi lo).toNat = 256 * hi.toNat + lo.toNat := by
  rw [wordOfBytes, BitVec.toNat_append, ← Nat.shiftLeft_add_eq_or_of_lt lo.isLt, Nat.shiftLeft_eq, Nat.mul_comm]

theorem wordOfBytes_wordBytes (op : Word) : wordOfBytes (op.extractLsb' 8 8) (op.extractLsb' 0 8) = op := by
  apply BitVec.eq_of_toNat_eq
  have := op.isLt
  rw [wordOfBytes_toNat]
  simp [Nat.shiftRight_eq_div_pow]
  omega

/-- A word that does not decode is reported as illegal, the word itself with it (R82, R84). -/
theorem decodeWord_error {op : Word} {e : DecodeError} (h : decodeWord op = .error e) : e = .illegalInstruction op := by
  revert h
  simp only [decodeWord, decodeGroup0, decodeXY0, decodeGroup8, decodeGroupE, decodeGroupF]
  repeat' split
  all_goals intro h; cases h
  all_goals rfl

/-! ### The value of an encoded word (R71) -/

theorem wordNNN_toNat (g : Nat) (hg : g < 16) (nnn : Addr) : (wordNNN g nnn).toNat = 4096 * g + nnn.toNat := by
  have := nnn.isLt
  simp only [wordNNN, BitVec.toNat_ofNat]; omega

theorem wordXNN_toNat (g : Nat) (hg : g < 16) (x : Reg) (nn : Byte) :
    (wordXNN g x nn).toNat = 4096 * g + 256 * x.val + nn.toNat := by
  have := nn.isLt
  simp only [wordXNN, BitVec.toNat_ofNat]; omega

theorem wordXYN_toNat (g : Nat) (hg : g < 16) (x y : Reg) (n : Nat) :
    (wordXYN g x y n).toNat = 4096 * g + 256 * x.val + 16 * y.val + n % 16 := by
  simp only [wordXYN, BitVec.toNat_ofNat]; omega

theorem wordXKK_toNat (g : Nat) (hg : g < 16) (x : Reg) (kk : Nat) (hk : kk < 256) :
    (wordXKK g x kk).toNat = 4096 * g + 256 * x.val + kk := by
  simp only [wordXKK, BitVec.toNat_ofNat]; omega

/-! ### What `op & mask` leaves, for the four masks of the opcode table -/

/-- `op & 0xF000` is the first nibble. -/
theorem and_F000_toNat (op : Word) : (op &&& 0xF000#16).toNat = 4096 * bits 15 12 op := by
  have h : (op &&& 0xF000#16) = (op.extractLsb' 12 4).setWidth 16 <<< 12 := by
    ext i hi
    simp only [BitVec.getElem_and, BitVec.getElem_shiftLeft]
    interval_cases i <;> simp
  rw [h, group_eq]
  simp [Nat.shiftLeft_eq, Nat.shiftRight_eq_div_pow]
  omega

/-- A masked word that keeps the first nibble and the low bits of another word. -/
theorem nibble_or_low (g l : Nat) (hg : g < 16) (hl : l < 4096) :
    ((BitVec.ofNat 16 g <<< 12) ||| BitVec.ofNat 16 l).toNat = 4096 * g + l := by
  have e : g <<< 12 < 2 ^ 16 := by rw [Nat.shiftLeft_eq]; omega
  simp only [BitVec.toNat_or, BitVec.toNat_shiftLeft, BitVec.toNat_ofNat]
  rw [Nat.mod_eq_of_lt (show g < 2 ^ 16 by omega), Nat.mod_eq_of_lt e, Nat.mod_eq_of_lt (show l < 2 ^ 16 by omega),
    ← Nat.shiftLeft_add_eq_or_of_lt (show l < 2 ^ 12 by omega), Nat.shiftLeft_eq]
  omega

theorem extract_eq_ofNat (op : Word) (lo len : Nat) :
    (op.extractLsb' lo len).setWidth 16 = BitVec.ofNat 16 (op.toNat / 2 ^ lo % 2 ^ len) := by
  apply BitVec.eq_of_toNat_eq
  simp [Nat.shiftRight_eq_div_pow]

/-- `op & 0xF00F` is the first and the fourth nibble. -/
theorem and_F00F_toNat (op : Word) : (op &&& 0xF00F#16).toNat = 4096 * bits 15 12 op + fieldN op := by
  have h : (op &&& 0xF00F#16) = ((op.extractLsb' 12 4).setWidth 16 <<< 12) ||| (op.extractLsb' 0 4).setWidth 16 := by
    ext i hi
    simp only [BitVec.getElem_and, BitVec.getElem_or, BitVec.getElem_shiftLeft]
    interval_cases i <;> simp
  rw [h, extract_eq_ofNat, extract_eq_ofNat, nibble_or_low _ _ (by omega) (by omega), group_eq, fieldN_eq]
  simp

/-- `op & 0xF0FF` is the first nibble and the low byte. -/
theorem and_F0FF_toNat (op : Word) : (op &&& 0xF0FF#16).toNat = 4096 * bits 15 12 op + bits 7 0 op := by
  have h : (op &&& 0xF0FF#16) = ((op.extractLsb' 12 4).setWidth 16 <<< 12) ||| (op.extractLsb' 0 8).setWidth 16 := by
    ext i hi
    simp only [BitVec.getElem_and, BitVec.getElem_or, BitVec.getElem_shiftLeft]
    interval_cases i <;> simp
  rw [h, extract_eq_ofNat, extract_eq_ofNat, nibble_or_low _ _ (by omega) (by omega), group_eq, lowByte_eq]
  simp

/-- `op & 0xFFFF` is the word. -/
theorem and_FFFF (op : Word) : op &&& 0xFFFF#16 = op := by
  have : (0xFFFF#16 : Word) = BitVec.allOnes 16 := by decide
  rw [this, BitVec.and_allOnes]

end Sys2Proof
end

