-- ==== Sys2Proof/Laws/Memory.lean ====
section
/-! SUPPORT. Memory: a read after a write, every other byte left alone, the canonical form kept, and what the checked
reads, writes and the fetch answer (spec 20_memory.md). -/

namespace Sys2Proof.Machine

/-! ### One byte -/

theorem Memory.byte_of_not_listed {m : Memory} {a : Nat} (h : ∀ c ∈ m, c.1 ≠ a) : m.byte a = resetByte a := by
  induction m with
  | nil => rfl
  | cons c m ih => simp_all [Memory.byte]

theorem Memory.byte_without (m : Memory) (a k : Nat) :
    (m.without a).byte k = if k = a then resetByte a else m.byte k := by
  induction m with
  | nil => simp only [Memory.without, List.filter_nil, Memory.byte]; split <;> simp_all
  | cons c m ih =>
    obtain ⟨q, b⟩ := c
    simp only [Memory.without, List.filter_cons, bne_iff_ne, Memory.byte] at ih ⊢
    by_cases hq : q = a
    · subst hq
      by_cases hk : k = q
      · subst hk; simpa using ih
      · simpa [hk, Ne.symm hk] using ih
    · by_cases hk : k = a
      · subst hk; simpa [hq, Memory.byte] using ih
      · simp [hq, hk, Memory.byte] at ih ⊢; split <;> simp_all

theorem Memory.byte_insertEntry (m : Memory) (a k : Nat) (b : Byte) (h : ∀ c ∈ m, c.1 ≠ a) :
    (m.insertEntry a b).byte k = if k = a then b else m.byte k := by
  induction m with
  | nil => simp [Memory.insertEntry, Memory.byte, eq_comm]
  | cons c m ih =>
    obtain ⟨q, d⟩ := c
    simp only [Memory.insertEntry]
    have ih' := ih fun c hc => h c (List.mem_cons_of_mem _ hc)
    have hq : q ≠ a := h (q, d) (by simp)
    split
    · simp [Memory.byte, eq_comm]
    · simp only [Memory.byte, ih']
      by_cases hk : k = a <;> simp_all

theorem Memory.not_mem_without (m : Memory) (a : Nat) : ∀ c ∈ m.without a, c.1 ≠ a := by
  intro c hc
  simpa using (List.mem_filter.mp hc).2

/-- A read after a write of one byte (R52, R53): the byte written there, every other byte as before. -/
@[simp] theorem Memory.byte_write (m : Memory) (a k : Nat) (b : Byte) :
    (m.write a b).byte k = if k = a then b else m.byte k := by
  unfold Memory.write
  split
  · rename_i hb; simp [Memory.byte_without, hb]
  · rw [Memory.byte_insertEntry _ _ _ _ (m.not_mem_without a), Memory.byte_without]
    split <;> simp_all

/-! ### The canonical form -/

theorem Memory.wf_nil : Memory.wf [] := by simp [Memory.wf]

theorem Memory.wf_without {m : Memory} (h : m.wf) (a : Nat) : (m.without a).wf :=
  ⟨h.1.filter _, fun c hc => h.2 c (List.mem_filter.mp hc).1⟩

theorem Memory.mem_insertEntry (m : Memory) (a : Nat) (b : Byte) (c : Host.Cell) :
    c ∈ m.insertEntry a b ↔ c = (a, b) ∨ c ∈ m := by
  induction m with
  | nil => simp [Memory.insertEntry]
  | cons d m ih =>
    simp only [Memory.insertEntry]
    split
    · simp
    · simp only [List.mem_cons, ih]; tauto

theorem Memory.wf_insertEntry {m : Memory} (h : m.wf) {a : Nat} {b : Byte} (ha : a < 0x1000)
    (hb : b ≠ resetByte a) (hm : ∀ c ∈ m, c.1 ≠ a) : (m.insertEntry a b).wf := by
  refine ⟨?_, fun c hc => ?_⟩
  · induction m with
    | nil => simp [Memory.insertEntry]
    | cons d m ih =>
      have hd := List.pairwise_cons.mp h.1
      simp only [Memory.insertEntry]
      split
      · rename_i had
        refine List.pairwise_cons.mpr ⟨fun c hc => ?_, h.1⟩
        rcases List.mem_cons.mp hc with rfl | hc
        · exact had
        · exact lt_trans had (hd.1 c hc)
      · rename_i had
        have := hm d (by simp)
        refine List.pairwise_cons.mpr ⟨fun c hc => ?_, ih ⟨hd.2, fun c hc => h.2 c (List.mem_cons_of_mem _ hc)⟩
          fun c hc => hm c (List.mem_cons_of_mem _ hc)⟩
        rcases (Memory.mem_insertEntry m a b c).mp hc with rfl | hc
        · simp only; omega
        · exact hd.1 c hc
  · rcases (Memory.mem_insertEntry m a b c).mp hc with rfl | hc
    · exact ⟨ha, hb⟩
    · exact h.2 c hc

/-- A write inside the address space keeps the canonical form. -/
theorem Memory.wf_write {m : Memory} (h : m.wf) {a : Nat} (ha : a < 0x1000) (b : Byte) : (m.write a b).wf := by
  unfold Memory.write
  split
  · exact Memory.wf_without h a
  · rename_i hb
    exact Memory.wf_insertEntry (Memory.wf_without h a) ha hb (m.not_mem_without a)

/-- Memories in canonical form that read alike everywhere are equal. -/
theorem Memory.ext_of_wf {m n : Memory} (hm : m.wf) (hn : n.wf) (h : ∀ a, m.byte a = n.byte a) : m = n := by
  induction m generalizing n with
  | nil =>
    cases n with
    | nil => rfl
    | cons d n =>
      have := h d.1
      have hd := hn.2 d (by simp)
      simp [Memory.byte] at this
      exact absurd this.symm hd.2
  | cons c m ih =>
    have hc := List.pairwise_cons.mp hm.1
    have hc2 := hm.2 c (by simp)
    have hm' : Memory.wf m := ⟨hc.2, fun e he => hm.2 e (List.mem_cons_of_mem _ he)⟩
    have notListed : ∀ {l : Memory} {a : Nat}, (∀ e ∈ l, a < e.1) → l.byte a = resetByte a :=
      fun hl => Memory.byte_of_not_listed fun e he => Nat.ne_of_gt (hl e he)
    cases n with
    | nil =>
      have := h c.1
      simp [Memory.byte] at this
      exact absurd this hc2.2
    | cons d n =>
      have hd := List.pairwise_cons.mp hn.1
      have hd2 := hn.2 d (by simp)
      have hn' : Memory.wf n := ⟨hd.2, fun e he => hn.2 e (List.mem_cons_of_mem _ he)⟩
      have hcd := h c.1
      have hdc := h d.1
      simp only [Memory.byte, if_true] at hcd hdc
      rcases lt_trichotomy c.1 d.1 with hlt | heq | hlt
      · rw [if_neg (Nat.ne_of_gt hlt), notListed fun e he => lt_trans hlt (hd.1 e he)] at hcd
        exact absurd hcd hc2.2
      · rw [if_pos heq.symm] at hcd
        have hcd' : c = d := Prod.ext heq hcd
        subst hcd'
        congr 1
        refine ih hm' hn' fun a => ?_
        have ha := h a
        simp only [Memory.byte] at ha
        by_cases hca : c.1 = a
        · subst hca; rw [notListed hc.1, notListed hd.1]
        · simpa [hca] using ha
      · rw [if_neg (Nat.ne_of_gt hlt), notListed fun e he => lt_trans hlt (hc.1 e he)] at hdc
        exact absurd hdc.symm hd2.2

/-! ### Several bytes -/

/-- A read after a write of several bytes (R55). -/
theorem Memory.byte_writeBytes (m : Memory) (a k : Nat) (bs : List Byte) :
    (m.writeBytes a bs).byte k = if a ≤ k ∧ k < a + bs.length then bs.getD (k - a) 0 else m.byte k := by
  induction bs generalizing m a with
  | nil => simp only [Memory.writeBytes, List.length_nil]; rw [if_neg (by omega)]
  | cons b bs ih =>
    simp only [Memory.writeBytes, ih, List.length_cons, Memory.byte_write]
    by_cases hk : k = a
    · subst hk
      rw [if_neg (by omega), if_pos rfl, if_pos (by omega)]; simp
    · by_cases hr : a + 1 ≤ k ∧ k < a + 1 + bs.length
      · rw [if_pos hr, if_pos (by omega)]
        obtain ⟨j, rfl⟩ : ∃ j, k = a + 1 + j := ⟨k - (a + 1), by omega⟩
        have e : a + 1 + j - a = j + 1 := by omega
        simp [e]
      · rw [if_neg hr, if_neg hk, if_neg (by omega)]

/-- Writes inside the address space keep the canonical form. -/
theorem Memory.wf_writeBytes {m : Memory} (h : m.wf) {a : Nat} {bs : List Byte} (ha : a + bs.length ≤ 0x1000) :
    (m.writeBytes a bs).wf := by
  induction bs generalizing m a with
  | nil => exact h
  | cons b bs ih =>
    simp only [List.length_cons] at ha
    exact ih (Memory.wf_write h (by omega) b) (by omega)

@[simp] theorem Memory.readBytes_length (m : Memory) (a len : Nat) : (m.readBytes a len).length = len := by
  simp [Memory.readBytes]

theorem Memory.readBytes_getElem? (m : Memory) (a len k : Nat) :
    (m.readBytes a len)[k]? = if k < len then some (m.byte (a + k)) else none := by
  simp only [Memory.readBytes, List.getElem?_map]
  split
  · simp [*]
  · rw [List.getElem?_eq_none (by simpa using by omega)]; rfl

/-! ### The checked accesses -/

/-- The range check of R56 passes exactly when no byte of the range is above 0xFFF. -/
theorem rangeError_eq_none (base len : Nat) : rangeError base len = none ↔ len = 0 ∨ base + len ≤ 0x1000 := by
  unfold rangeError
  split <;> simp <;> omega

/-- The range check of R56 reports the lowest address of the range above 0xFFF. -/
theorem rangeError_eq_some (base len a : Nat) :
    rangeError base len = some a ↔ 0 < len ∧ 0x1000 < base + len ∧ a = max base 0x1000 := by
  unfold rangeError
  split
  · simp only [Option.some.injEq]; omega
  · simp; omega

/-- What a load answers (R52, R56). -/
theorem Memory.load_eq_ok (m : Memory) (base len : Nat) (bs : List Byte) :
    m.load base len = .ok bs ↔ (len = 0 ∨ base + len ≤ 0x1000) ∧ bs = m.readBytes base len := by
  unfold Memory.load
  rw [← rangeError_eq_none]
  cases rangeError base len <;> simp [eq_comm]

theorem Memory.load_eq_error (m : Memory) (base len a : Nat) :
    m.load base len = .error a ↔ 0 < len ∧ 0x1000 < base + len ∧ a = max base 0x1000 := by
  unfold Memory.load
  rw [← rangeError_eq_some]
  cases rangeError base len <;> simp

/-- What a store answers (R53, R56). -/
theorem Memory.store_eq_ok (m n : Memory) (base : Nat) (bs : List Byte) :
    m.store base bs = .ok n ↔ (bs.length = 0 ∨ base + bs.length ≤ 0x1000) ∧ n = m.writeBytes base bs := by
  unfold Memory.store
  rw [← rangeError_eq_none]
  cases rangeError base bs.length <;> simp [eq_comm]

theorem Memory.store_eq_error (m : Memory) (base a : Nat) (bs : List Byte) :
    m.store base bs = .error a ↔ 0 < bs.length ∧ 0x1000 < base + bs.length ∧ a = max base 0x1000 := by
  unfold Memory.store
  rw [← rangeError_eq_some]
  cases rangeError base bs.length <;> simp

/-- What a fetch answers (R80, R81): the big-endian word when both bytes lie in memory. -/
theorem Memory.fetch_eq_ok (m : Memory) (a : Nat) (op : Word) :
    m.fetch a = .ok op ↔ a ≤ 0xFFE ∧ op = wordOfBytes (m.byte a) (m.byte (a + 1)) := by
  unfold Memory.fetch Memory.read
  by_cases h : a > 0xFFF
  · simp [h]; omega
  · by_cases h' : a + 1 > 0xFFF
    · simp [h, h']; omega
    · simp only [h, h', if_false, Except.ok.injEq]
      constructor
      · rintro rfl; exact ⟨by omega, rfl⟩
      · rintro ⟨-, rfl⟩; rfl

theorem Memory.fetch_eq_error (m : Memory) (a n : Nat) :
    m.fetch a = .error n ↔ 0xFFE < a ∧ n = max a 0x1000 := by
  unfold Memory.fetch Memory.read
  by_cases h : a > 0xFFF
  · simp [h]; omega
  · by_cases h' : a + 1 > 0xFFF
    · simp [h, h']; omega
    · simp [h, h']; omega

end Sys2Proof.Machine
end

