-- ==== Sys2Proof/Laws/Screen.lean ====
section
/-! SUPPORT. The framebuffer: a cell after a cell write, and all that drawing a sprite does: which cells it XORs and
what collision it notes (spec 43_display.md R171 to R173). -/

namespace Sys2Proof.Machine

theorem Framebuffer.cell_blank (x : Fin 64) (y : Fin 32) : Framebuffer.blank.cell x y = false := by
  simp [Framebuffer.cell, Framebuffer.blank]

/-- A cell after the write of one cell (R30). -/
theorem Framebuffer.cell_setCell (fb : Framebuffer) (x cx : Fin 64) (y cy : Fin 32) (b : Bool) :
    (fb.setCell x y b).cell cx cy = if cx = x ∧ cy = y then b else fb.cell cx cy := by
  simp only [Framebuffer.cell, Framebuffer.setCell, Vector.getElem_set, Fin.ext_iff]
  by_cases hy : y.val = cy.val
  · by_cases hx : x.val = cx.val
    · simp [hx, hy]
    · simp [hx, hy, Ne.symm hx]
  · simp [hy, Ne.symm hy]

/-- Framebuffers with the same cells are equal. -/
theorem Framebuffer.ext_cells {f g : Framebuffer} (h : ∀ x y, f.cell x y = g.cell x y) : f = g := by
  apply Vector.ext
  intro y hy
  apply Vector.ext
  intro x hx
  exact h ⟨x, hx⟩ ⟨y, hy⟩

/-- The column offset from `x0` at which a sprite row covers column `cx` (R173). -/
def columnOffset (x0 : Nat) (cx : Fin 64) : Nat := (cx.val + 64 - x0 % 64) % 64

/-- The row offset from `y0` at which a sprite covers row `cy` (R173). -/
def rowOffset (y0 : Nat) (cy : Fin 32) : Nat := (cy.val + 32 - y0 % 32) % 32

theorem column_eq_iff (x0 k : Nat) (hk : k < 64) (cx : Fin 64) : cx = column (x0 + k) ↔ columnOffset x0 cx = k := by
  simp only [column, columnOffset, Fin.ext_iff, Fin.val_ofNat]
  omega

theorem column_columnOffset (x0 : Nat) (cx : Fin 64) : column (x0 + columnOffset x0 cx) = cx := by
  simp only [column, columnOffset, Fin.ext_iff, Fin.val_ofNat]
  omega

/-- The cells after the first `k` pixels of a sprite row. -/
theorem drawPixels_cell (p : CollisionRule) (row : Byte) (x0 : Nat) (y : Fin 32) (acc : Framebuffer × Bool) (k : Nat)
    (hk : k ≤ 64) (cx : Fin 64) (cy : Fin 32) :
    ((List.range k).foldl (drawPixel p row x0 y) acc).1.cell cx cy =
      ((acc.1.cell cx cy) ^^ (decide (cy = y) && decide (columnOffset x0 cx < k) && spritePixel row (columnOffset x0 cx))) := by
  induction k with
  | zero => simp
  | succ k ih =>
    have ih := ih (by omega)
    rw [List.range_succ, List.foldl_append, List.foldl_cons, List.foldl_nil]
    generalize List.foldl (drawPixel p row x0 y) acc (List.range k) = a at ih ⊢
    have hcol := column_eq_iff x0 k (by omega) cx
    simp only [drawPixel, plot]
    by_cases hpix : spritePixel row k = true
    · simp only [hpix, if_true, Framebuffer.cell_setCell]
      by_cases hc : columnOffset x0 cx = k
      · obtain rfl := hcol.mpr hc
        rw [hc] at ih ⊢
        by_cases hy : cy = y
        · subst hy; simp [ih, hpix]
        · simp [ih, hy]
      · have : ¬cx = column (x0 + k) := fun h => hc (hcol.mp h)
        have hlt : columnOffset x0 cx < k + 1 ↔ columnOffset x0 cx < k := by omega
        simp [this, ih, hlt]
    · simp only [hpix, Bool.false_eq_true, if_false, ih]
      by_cases hc : columnOffset x0 cx = k
      · simp [hc, hpix]
      · have hlt : columnOffset x0 cx < k + 1 ↔ columnOffset x0 cx < k := by omega
        simp [hlt]

/-- A sprite row XORs its set pixels into the cells it covers, wrapping at the right edge (R171, R173). -/
theorem drawRow_cell (p : CollisionRule) (row : Byte) (x0 : Nat) (y : Fin 32) (acc : Framebuffer × Bool)
    (cx : Fin 64) (cy : Fin 32) :
    (drawRow p row x0 y acc).1.cell cx cy =
      ((acc.1.cell cx cy) ^^ (decide (cy = y) && spritePixel row (columnOffset x0 cx))) := by
  rw [drawRow, drawPixels_cell p row x0 y acc 8 (by omega)]
  by_cases h : columnOffset x0 cx < 8 <;> simp [h, spritePixel]

/-- The collision noted after the first `k` pixels of a sprite row, under the per-sprite rule. -/
theorem drawPixels_hit (row : Byte) (x0 : Nat) (y : Fin 32) (acc : Framebuffer × Bool) (k : Nat) (hk : k ≤ 64) :
    ((List.range k).foldl (drawPixel .perSprite row x0 y) acc).2 = true ↔
      acc.2 = true ∨ ∃ c, c < k ∧ spritePixel row c = true ∧ acc.1.cell (column (x0 + c)) y = true := by
  induction k with
  | zero => simp
  | succ k ih =>
    have ih := ih (by omega)
    have hcell := drawPixels_cell .perSprite row x0 y acc k (by omega) (column (x0 + k)) y
    rw [(column_eq_iff x0 k (by omega) _).mp rfl] at hcell
    rw [List.range_succ, List.foldl_append, List.foldl_cons, List.foldl_nil]
    generalize List.foldl (drawPixel .perSprite row x0 y) acc (List.range k) = a at ih hcell ⊢
    have split : (∃ c, c < k + 1 ∧ spritePixel row c = true ∧ acc.1.cell (column (x0 + c)) y = true) ↔
        (∃ c, c < k ∧ spritePixel row c = true ∧ acc.1.cell (column (x0 + c)) y = true) ∨
          (spritePixel row k = true ∧ acc.1.cell (column (x0 + k)) y = true) := by
      constructor
      · rintro ⟨c, hc, h⟩
        rcases Nat.lt_succ_iff_lt_or_eq.mp hc with hc | rfl
        · exact .inl ⟨c, hc, h⟩
        · exact .inr h
      · rintro (⟨c, hc, h⟩ | h)
        · exact ⟨c, by omega, h⟩
        · exact ⟨k, by omega, h⟩
    rw [split, ← or_assoc, ← ih]
    simp only [lt_irrefl, decide_false, Bool.and_false, Bool.false_and, Bool.xor_false] at hcell
    simp only [drawPixel, plot]
    by_cases hpix : spritePixel row k = true
    · simp [hpix, collide, hcell]
    · simp [hpix]

/-- The collision a sprite row notes under the per-sprite rule: some set pixel fell on a cell that held 1 (R172). -/
theorem drawRow_hit (row : Byte) (x0 : Nat) (y : Fin 32) (acc : Framebuffer × Bool) :
    (drawRow .perSprite row x0 y acc).2 = true ↔
      acc.2 = true ∨ ∃ cx, spritePixel row (columnOffset x0 cx) = true ∧ acc.1.cell cx y = true := by
  rw [drawRow, drawPixels_hit row x0 y acc 8 (by omega)]
  refine or_congr_right ⟨?_, ?_⟩
  · rintro ⟨c, hc, hp, h⟩
    refine ⟨column (x0 + c), ?_, h⟩
    rwa [(column_eq_iff x0 c (by omega) _).mp rfl]
  · rintro ⟨cx, hp, h⟩
    refine ⟨columnOffset x0 cx, ?_, hp, ?_⟩
    · simp [spritePixel] at hp; exact hp.1
    · rwa [column_columnOffset]

/-- The pixel of a sprite's rows at a row and column offset; false past the last row. -/
def rowsPixel (rows : List Byte) (r c : Nat) : Bool := (rows[r]?).elim false fun row => spritePixel row c

/-- The offset of a row below the sprite's first row. -/
theorem rowOffset_cases (y0 : Nat) (cy : Fin 32) :
    (cy = rowOf y0 ∧ rowOffset y0 cy = 0 ∧ rowOffset (y0 + 1) cy = 31) ∨
      (cy ≠ rowOf y0 ∧ rowOffset y0 cy = rowOffset (y0 + 1) cy + 1) := by
  simp only [rowOf, rowOffset, Fin.ext_iff, Fin.val_ofNat, ne_eq]
  omega

/-- A sprite's pixels, its first row apart from the rest. -/
theorem rowsPixel_cons (row : Byte) (rows : List Byte) (hlen : rows.length < 32) (y0 : Nat) (cy : Fin 32) (c : Nat) :
    rowsPixel (row :: rows) (rowOffset y0 cy) c =
      ((decide (cy = rowOf y0) && spritePixel row c) ^^ rowsPixel rows (rowOffset (y0 + 1) cy) c) := by
  rcases rowOffset_cases y0 cy with ⟨hy, h0, h31⟩ | ⟨hy, h⟩
  · have : rows[31]? = none := List.getElem?_eq_none (by omega)
    rw [h0, h31]
    simp [rowsPixel, hy, this]
  · simp [rowsPixel, h, hy]

/-- A sprite of at most 32 rows XORs its set pixels into the cells it covers, wrapping at both edges (R171, R173). -/
theorem drawRows_cell (p : CollisionRule) (x0 y0 : Nat) (rows : List Byte) (hlen : rows.length ≤ 32)
    (acc : Framebuffer × Bool) (cx : Fin 64) (cy : Fin 32) :
    (drawRows p x0 y0 rows acc).1.cell cx cy =
      ((acc.1.cell cx cy) ^^ rowsPixel rows (rowOffset y0 cy) (columnOffset x0 cx)) := by
  induction rows generalizing y0 acc with
  | nil => simp [drawRows, rowsPixel]
  | cons row rows ih =>
    simp only [List.length_cons] at hlen
    rw [drawRows, ih (y0 + 1) (by omega), drawRow_cell, rowsPixel_cons row rows (by omega), Bool.xor_assoc]

/-- The collision a sprite notes under the per-sprite rule: some set pixel fell on a cell that held 1 (R172). -/
theorem drawRows_hit (x0 y0 : Nat) (rows : List Byte) (hlen : rows.length ≤ 32) (acc : Framebuffer × Bool) :
    (drawRows .perSprite x0 y0 rows acc).2 = true ↔
      acc.2 = true ∨
        ∃ cx cy, rowsPixel rows (rowOffset y0 cy) (columnOffset x0 cx) = true ∧ acc.1.cell cx cy = true := by
  induction rows generalizing y0 acc with
  | nil => simp [drawRows, rowsPixel]
  | cons row rows ih =>
    simp only [List.length_cons] at hlen
    rw [drawRows, ih (y0 + 1) (by omega), drawRow_hit, or_assoc]
    refine or_congr_right ⟨?_, ?_⟩
    · rintro (⟨cx, hp, h⟩ | ⟨cx, cy, hp, h⟩)
      · refine ⟨cx, rowOf y0, ?_, h⟩
        rcases rowOffset_cases y0 (rowOf y0) with ⟨-, h0, -⟩ | ⟨hne, -⟩
        · simpa [rowsPixel, h0] using hp
        · exact absurd rfl hne
      · rw [drawRow_cell] at h
        rcases rowOffset_cases y0 cy with ⟨-, -, h31⟩ | ⟨hne, hr⟩
        · have : rows[31]? = none := List.getElem?_eq_none (by omega)
          simp [rowsPixel, h31, this] at hp
        · exact ⟨cx, cy, by simpa [rowsPixel, hr] using hp, by simpa [hne] using h⟩
    · rintro ⟨cx, cy, hp, h⟩
      rcases rowOffset_cases y0 cy with ⟨rfl, h0, -⟩ | ⟨hne, hr⟩
      · exact .inl ⟨cx, by simpa [rowsPixel, h0] using hp, h⟩
      · refine .inr ⟨cx, cy, by simpa [rowsPixel, hr] using hp, ?_⟩
        simpa [drawRow_cell, hne] using h

end Sys2Proof.Machine
end

