-- ==== Sys2Proof/Laws/State.lean ====
section
/-! SUPPORT. What each state update does to each field: one lemma per field per update, true by rfl. The accessors
`reg`, `key`, `slot` after an update; a conditional skip; the stack's push and pop. -/

namespace Sys2Proof.Machine

/-! ### `setReg` -/

@[simp] theorem State.setReg_mem (s : State) (r : Reg) (b : Byte) : (s.setReg r b).mem = s.mem := rfl
@[simp] theorem State.setReg_v (s : State) (r : Reg) (b : Byte) : (s.setReg r b).v = s.v.set r.val b := rfl
@[simp] theorem State.setReg_i (s : State) (r : Reg) (b : Byte) : (s.setReg r b).i = s.i := rfl
@[simp] theorem State.setReg_pc (s : State) (r : Reg) (b : Byte) : (s.setReg r b).pc = s.pc := rfl
@[simp] theorem State.setReg_stack (s : State) (r : Reg) (b : Byte) : (s.setReg r b).stack = s.stack := rfl
@[simp] theorem State.setReg_sp (s : State) (r : Reg) (b : Byte) : (s.setReg r b).sp = s.sp := rfl
@[simp] theorem State.setReg_dt (s : State) (r : Reg) (b : Byte) : (s.setReg r b).dt = s.dt := rfl
@[simp] theorem State.setReg_st (s : State) (r : Reg) (b : Byte) : (s.setReg r b).st = s.st := rfl
@[simp] theorem State.setReg_keys (s : State) (r : Reg) (b : Byte) : (s.setReg r b).keys = s.keys := rfl
@[simp] theorem State.setReg_wait (s : State) (r : Reg) (b : Byte) : (s.setReg r b).wait = s.wait := rfl
@[simp] theorem State.setReg_fb (s : State) (r : Reg) (b : Byte) : (s.setReg r b).fb = s.fb := rfl
@[simp] theorem State.setReg_dirty (s : State) (r : Reg) (b : Byte) : (s.setReg r b).dirty = s.dirty := rfl
@[simp] theorem State.setReg_fault (s : State) (r : Reg) (b : Byte) : (s.setReg r b).fault = s.fault := rfl
@[simp] theorem State.setReg_draws (s : State) (r : Reg) (b : Byte) : (s.setReg r b).draws = s.draws := rfl
@[simp] theorem State.setReg_key (s : State) (r : Reg) (b : Byte) (q : Fin 16) : (s.setReg r b).key q = s.key q := rfl
@[simp] theorem State.setReg_slot (s : State) (r : Reg) (b : Byte) (q : Fin 16) : (s.setReg r b).slot q = s.slot q := rfl

/-! ### `setRegFlag` -/

@[simp] theorem State.setRegFlag_mem (s : State) (x : Reg) (b f : Byte) : (s.setRegFlag x b f).mem = s.mem := rfl
@[simp] theorem State.setRegFlag_v (s : State) (x : Reg) (b f : Byte) : (s.setRegFlag x b f).v = (s.v.set x.val b).set 15 f := rfl
@[simp] theorem State.setRegFlag_i (s : State) (x : Reg) (b f : Byte) : (s.setRegFlag x b f).i = s.i := rfl
@[simp] theorem State.setRegFlag_pc (s : State) (x : Reg) (b f : Byte) : (s.setRegFlag x b f).pc = s.pc := rfl
@[simp] theorem State.setRegFlag_stack (s : State) (x : Reg) (b f : Byte) : (s.setRegFlag x b f).stack = s.stack := rfl
@[simp] theorem State.setRegFlag_sp (s : State) (x : Reg) (b f : Byte) : (s.setRegFlag x b f).sp = s.sp := rfl
@[simp] theorem State.setRegFlag_dt (s : State) (x : Reg) (b f : Byte) : (s.setRegFlag x b f).dt = s.dt := rfl
@[simp] theorem State.setRegFlag_st (s : State) (x : Reg) (b f : Byte) : (s.setRegFlag x b f).st = s.st := rfl
@[simp] theorem State.setRegFlag_keys (s : State) (x : Reg) (b f : Byte) : (s.setRegFlag x b f).keys = s.keys := rfl
@[simp] theorem State.setRegFlag_wait (s : State) (x : Reg) (b f : Byte) : (s.setRegFlag x b f).wait = s.wait := rfl
@[simp] theorem State.setRegFlag_fb (s : State) (x : Reg) (b f : Byte) : (s.setRegFlag x b f).fb = s.fb := rfl
@[simp] theorem State.setRegFlag_dirty (s : State) (x : Reg) (b f : Byte) : (s.setRegFlag x b f).dirty = s.dirty := rfl
@[simp] theorem State.setRegFlag_fault (s : State) (x : Reg) (b f : Byte) : (s.setRegFlag x b f).fault = s.fault := rfl
@[simp] theorem State.setRegFlag_draws (s : State) (x : Reg) (b f : Byte) : (s.setRegFlag x b f).draws = s.draws := rfl
@[simp] theorem State.setRegFlag_key (s : State) (x : Reg) (b f : Byte) (q : Fin 16) : (s.setRegFlag x b f).key q = s.key q := rfl
@[simp] theorem State.setRegFlag_slot (s : State) (x : Reg) (b f : Byte) (q : Fin 16) : (s.setRegFlag x b f).slot q = s.slot q := rfl

/-! ### `setRegs` -/

@[simp] theorem State.setRegs_mem (s : State) (bs : List Byte) : (s.setRegs bs).mem = s.mem := by unfold State.setRegs; rfl
@[simp] theorem State.setRegs_v (s : State) (bs : List Byte) : (s.setRegs bs).v = fillRegs s.v bs := by unfold State.setRegs; rfl
@[simp] theorem State.setRegs_i (s : State) (bs : List Byte) : (s.setRegs bs).i = s.i := by unfold State.setRegs; rfl
@[simp] theorem State.setRegs_pc (s : State) (bs : List Byte) : (s.setRegs bs).pc = s.pc := by unfold State.setRegs; rfl
@[simp] theorem State.setRegs_stack (s : State) (bs : List Byte) : (s.setRegs bs).stack = s.stack := by unfold State.setRegs; rfl
@[simp] theorem State.setRegs_sp (s : State) (bs : List Byte) : (s.setRegs bs).sp = s.sp := by unfold State.setRegs; rfl
@[simp] theorem State.setRegs_dt (s : State) (bs : List Byte) : (s.setRegs bs).dt = s.dt := by unfold State.setRegs; rfl
@[simp] theorem State.setRegs_st (s : State) (bs : List Byte) : (s.setRegs bs).st = s.st := by unfold State.setRegs; rfl
@[simp] theorem State.setRegs_keys (s : State) (bs : List Byte) : (s.setRegs bs).keys = s.keys := by unfold State.setRegs; rfl
@[simp] theorem State.setRegs_wait (s : State) (bs : List Byte) : (s.setRegs bs).wait = s.wait := by unfold State.setRegs; rfl
@[simp] theorem State.setRegs_fb (s : State) (bs : List Byte) : (s.setRegs bs).fb = s.fb := by unfold State.setRegs; rfl
@[simp] theorem State.setRegs_dirty (s : State) (bs : List Byte) : (s.setRegs bs).dirty = s.dirty := by unfold State.setRegs; rfl
@[simp] theorem State.setRegs_fault (s : State) (bs : List Byte) : (s.setRegs bs).fault = s.fault := by unfold State.setRegs; rfl
@[simp] theorem State.setRegs_draws (s : State) (bs : List Byte) : (s.setRegs bs).draws = s.draws := by unfold State.setRegs; rfl
@[simp] theorem State.setRegs_key (s : State) (bs : List Byte) (q : Fin 16) : (s.setRegs bs).key q = s.key q := by unfold State.setRegs; rfl
@[simp] theorem State.setRegs_slot (s : State) (bs : List Byte) (q : Fin 16) : (s.setRegs bs).slot q = s.slot q := by unfold State.setRegs; rfl

/-! ### `setPc` -/

@[simp] theorem State.setPc_mem (s : State) (a : Word) : (s.setPc a).mem = s.mem := rfl
@[simp] theorem State.setPc_v (s : State) (a : Word) : (s.setPc a).v = s.v := rfl
@[simp] theorem State.setPc_i (s : State) (a : Word) : (s.setPc a).i = s.i := rfl
@[simp] theorem State.setPc_pc (s : State) (a : Word) : (s.setPc a).pc = a := rfl
@[simp] theorem State.setPc_stack (s : State) (a : Word) : (s.setPc a).stack = s.stack := rfl
@[simp] theorem State.setPc_sp (s : State) (a : Word) : (s.setPc a).sp = s.sp := rfl
@[simp] theorem State.setPc_dt (s : State) (a : Word) : (s.setPc a).dt = s.dt := rfl
@[simp] theorem State.setPc_st (s : State) (a : Word) : (s.setPc a).st = s.st := rfl
@[simp] theorem State.setPc_keys (s : State) (a : Word) : (s.setPc a).keys = s.keys := rfl
@[simp] theorem State.setPc_wait (s : State) (a : Word) : (s.setPc a).wait = s.wait := rfl
@[simp] theorem State.setPc_fb (s : State) (a : Word) : (s.setPc a).fb = s.fb := rfl
@[simp] theorem State.setPc_dirty (s : State) (a : Word) : (s.setPc a).dirty = s.dirty := rfl
@[simp] theorem State.setPc_fault (s : State) (a : Word) : (s.setPc a).fault = s.fault := rfl
@[simp] theorem State.setPc_draws (s : State) (a : Word) : (s.setPc a).draws = s.draws := rfl
@[simp] theorem State.setPc_reg (s : State) (a : Word) (q : Reg) : (s.setPc a).reg q = s.reg q := rfl
@[simp] theorem State.setPc_key (s : State) (a : Word) (q : Fin 16) : (s.setPc a).key q = s.key q := rfl
@[simp] theorem State.setPc_slot (s : State) (a : Word) (q : Fin 16) : (s.setPc a).slot q = s.slot q := rfl

/-! ### `advance` -/

@[simp] theorem State.advance_mem (s : State) : (s.advance).mem = s.mem := rfl
@[simp] theorem State.advance_v (s : State) : (s.advance).v = s.v := rfl
@[simp] theorem State.advance_i (s : State) : (s.advance).i = s.i := rfl
@[simp] theorem State.advance_pc (s : State) : (s.advance).pc = s.pc + 2 := rfl
@[simp] theorem State.advance_stack (s : State) : (s.advance).stack = s.stack := rfl
@[simp] theorem State.advance_sp (s : State) : (s.advance).sp = s.sp := rfl
@[simp] theorem State.advance_dt (s : State) : (s.advance).dt = s.dt := rfl
@[simp] theorem State.advance_st (s : State) : (s.advance).st = s.st := rfl
@[simp] theorem State.advance_keys (s : State) : (s.advance).keys = s.keys := rfl
@[simp] theorem State.advance_wait (s : State) : (s.advance).wait = s.wait := rfl
@[simp] theorem State.advance_fb (s : State) : (s.advance).fb = s.fb := rfl
@[simp] theorem State.advance_dirty (s : State) : (s.advance).dirty = s.dirty := rfl
@[simp] theorem State.advance_fault (s : State) : (s.advance).fault = s.fault := rfl
@[simp] theorem State.advance_draws (s : State) : (s.advance).draws = s.draws := rfl
@[simp] theorem State.advance_reg (s : State) (q : Reg) : (s.advance).reg q = s.reg q := rfl
@[simp] theorem State.advance_key (s : State) (q : Fin 16) : (s.advance).key q = s.key q := rfl
@[simp] theorem State.advance_slot (s : State) (q : Fin 16) : (s.advance).slot q = s.slot q := rfl

/-! ### `setI` -/

@[simp] theorem State.setI_mem (s : State) (a : Word) : (s.setI a).mem = s.mem := rfl
@[simp] theorem State.setI_v (s : State) (a : Word) : (s.setI a).v = s.v := rfl
@[simp] theorem State.setI_i (s : State) (a : Word) : (s.setI a).i = a := rfl
@[simp] theorem State.setI_pc (s : State) (a : Word) : (s.setI a).pc = s.pc := rfl
@[simp] theorem State.setI_stack (s : State) (a : Word) : (s.setI a).stack = s.stack := rfl
@[simp] theorem State.setI_sp (s : State) (a : Word) : (s.setI a).sp = s.sp := rfl
@[simp] theorem State.setI_dt (s : State) (a : Word) : (s.setI a).dt = s.dt := rfl
@[simp] theorem State.setI_st (s : State) (a : Word) : (s.setI a).st = s.st := rfl
@[simp] theorem State.setI_keys (s : State) (a : Word) : (s.setI a).keys = s.keys := rfl
@[simp] theorem State.setI_wait (s : State) (a : Word) : (s.setI a).wait = s.wait := rfl
@[simp] theorem State.setI_fb (s : State) (a : Word) : (s.setI a).fb = s.fb := rfl
@[simp] theorem State.setI_dirty (s : State) (a : Word) : (s.setI a).dirty = s.dirty := rfl
@[simp] theorem State.setI_fault (s : State) (a : Word) : (s.setI a).fault = s.fault := rfl
@[simp] theorem State.setI_draws (s : State) (a : Word) : (s.setI a).draws = s.draws := rfl
@[simp] theorem State.setI_reg (s : State) (a : Word) (q : Reg) : (s.setI a).reg q = s.reg q := rfl
@[simp] theorem State.setI_key (s : State) (a : Word) (q : Fin 16) : (s.setI a).key q = s.key q := rfl
@[simp] theorem State.setI_slot (s : State) (a : Word) (q : Fin 16) : (s.setI a).slot q = s.slot q := rfl

/-! ### `setMem` -/

@[simp] theorem State.setMem_mem (s : State) (m : Memory) : (s.setMem m).mem = m := rfl
@[simp] theorem State.setMem_v (s : State) (m : Memory) : (s.setMem m).v = s.v := rfl
@[simp] theorem State.setMem_i (s : State) (m : Memory) : (s.setMem m).i = s.i := rfl
@[simp] theorem State.setMem_pc (s : State) (m : Memory) : (s.setMem m).pc = s.pc := rfl
@[simp] theorem State.setMem_stack (s : State) (m : Memory) : (s.setMem m).stack = s.stack := rfl
@[simp] theorem State.setMem_sp (s : State) (m : Memory) : (s.setMem m).sp = s.sp := rfl
@[simp] theorem State.setMem_dt (s : State) (m : Memory) : (s.setMem m).dt = s.dt := rfl
@[simp] theorem State.setMem_st (s : State) (m : Memory) : (s.setMem m).st = s.st := rfl
@[simp] theorem State.setMem_keys (s : State) (m : Memory) : (s.setMem m).keys = s.keys := rfl
@[simp] theorem State.setMem_wait (s : State) (m : Memory) : (s.setMem m).wait = s.wait := rfl
@[simp] theorem State.setMem_fb (s : State) (m : Memory) : (s.setMem m).fb = s.fb := rfl
@[simp] theorem State.setMem_dirty (s : State) (m : Memory) : (s.setMem m).dirty = s.dirty := rfl
@[simp] theorem State.setMem_fault (s : State) (m : Memory) : (s.setMem m).fault = s.fault := rfl
@[simp] theorem State.setMem_draws (s : State) (m : Memory) : (s.setMem m).draws = s.draws := rfl
@[simp] theorem State.setMem_reg (s : State) (m : Memory) (q : Reg) : (s.setMem m).reg q = s.reg q := rfl
@[simp] theorem State.setMem_key (s : State) (m : Memory) (q : Fin 16) : (s.setMem m).key q = s.key q := rfl
@[simp] theorem State.setMem_slot (s : State) (m : Memory) (q : Fin 16) : (s.setMem m).slot q = s.slot q := rfl

/-! ### `setDt` -/

@[simp] theorem State.setDt_mem (s : State) (b : Byte) : (s.setDt b).mem = s.mem := rfl
@[simp] theorem State.setDt_v (s : State) (b : Byte) : (s.setDt b).v = s.v := rfl
@[simp] theorem State.setDt_i (s : State) (b : Byte) : (s.setDt b).i = s.i := rfl
@[simp] theorem State.setDt_pc (s : State) (b : Byte) : (s.setDt b).pc = s.pc := rfl
@[simp] theorem State.setDt_stack (s : State) (b : Byte) : (s.setDt b).stack = s.stack := rfl
@[simp] theorem State.setDt_sp (s : State) (b : Byte) : (s.setDt b).sp = s.sp := rfl
@[simp] theorem State.setDt_dt (s : State) (b : Byte) : (s.setDt b).dt = b := rfl
@[simp] theorem State.setDt_st (s : State) (b : Byte) : (s.setDt b).st = s.st := rfl
@[simp] theorem State.setDt_keys (s : State) (b : Byte) : (s.setDt b).keys = s.keys := rfl
@[simp] theorem State.setDt_wait (s : State) (b : Byte) : (s.setDt b).wait = s.wait := rfl
@[simp] theorem State.setDt_fb (s : State) (b : Byte) : (s.setDt b).fb = s.fb := rfl
@[simp] theorem State.setDt_dirty (s : State) (b : Byte) : (s.setDt b).dirty = s.dirty := rfl
@[simp] theorem State.setDt_fault (s : State) (b : Byte) : (s.setDt b).fault = s.fault := rfl
@[simp] theorem State.setDt_draws (s : State) (b : Byte) : (s.setDt b).draws = s.draws := rfl
@[simp] theorem State.setDt_reg (s : State) (b : Byte) (q : Reg) : (s.setDt b).reg q = s.reg q := rfl
@[simp] theorem State.setDt_key (s : State) (b : Byte) (q : Fin 16) : (s.setDt b).key q = s.key q := rfl
@[simp] theorem State.setDt_slot (s : State) (b : Byte) (q : Fin 16) : (s.setDt b).slot q = s.slot q := rfl

/-! ### `setSt` -/

@[simp] theorem State.setSt_mem (s : State) (b : Byte) : (s.setSt b).mem = s.mem := rfl
@[simp] theorem State.setSt_v (s : State) (b : Byte) : (s.setSt b).v = s.v := rfl
@[simp] theorem State.setSt_i (s : State) (b : Byte) : (s.setSt b).i = s.i := rfl
@[simp] theorem State.setSt_pc (s : State) (b : Byte) : (s.setSt b).pc = s.pc := rfl
@[simp] theorem State.setSt_stack (s : State) (b : Byte) : (s.setSt b).stack = s.stack := rfl
@[simp] theorem State.setSt_sp (s : State) (b : Byte) : (s.setSt b).sp = s.sp := rfl
@[simp] theorem State.setSt_dt (s : State) (b : Byte) : (s.setSt b).dt = s.dt := rfl
@[simp] theorem State.setSt_st (s : State) (b : Byte) : (s.setSt b).st = b := rfl
@[simp] theorem State.setSt_keys (s : State) (b : Byte) : (s.setSt b).keys = s.keys := rfl
@[simp] theorem State.setSt_wait (s : State) (b : Byte) : (s.setSt b).wait = s.wait := rfl
@[simp] theorem State.setSt_fb (s : State) (b : Byte) : (s.setSt b).fb = s.fb := rfl
@[simp] theorem State.setSt_dirty (s : State) (b : Byte) : (s.setSt b).dirty = s.dirty := rfl
@[simp] theorem State.setSt_fault (s : State) (b : Byte) : (s.setSt b).fault = s.fault := rfl
@[simp] theorem State.setSt_draws (s : State) (b : Byte) : (s.setSt b).draws = s.draws := rfl
@[simp] theorem State.setSt_reg (s : State) (b : Byte) (q : Reg) : (s.setSt b).reg q = s.reg q := rfl
@[simp] theorem State.setSt_key (s : State) (b : Byte) (q : Fin 16) : (s.setSt b).key q = s.key q := rfl
@[simp] theorem State.setSt_slot (s : State) (b : Byte) (q : Fin 16) : (s.setSt b).slot q = s.slot q := rfl

/-! ### `setWait` -/

@[simp] theorem State.setWait_mem (s : State) (b : Bool) : (s.setWait b).mem = s.mem := rfl
@[simp] theorem State.setWait_v (s : State) (b : Bool) : (s.setWait b).v = s.v := rfl
@[simp] theorem State.setWait_i (s : State) (b : Bool) : (s.setWait b).i = s.i := rfl
@[simp] theorem State.setWait_pc (s : State) (b : Bool) : (s.setWait b).pc = s.pc := rfl
@[simp] theorem State.setWait_stack (s : State) (b : Bool) : (s.setWait b).stack = s.stack := rfl
@[simp] theorem State.setWait_sp (s : State) (b : Bool) : (s.setWait b).sp = s.sp := rfl
@[simp] theorem State.setWait_dt (s : State) (b : Bool) : (s.setWait b).dt = s.dt := rfl
@[simp] theorem State.setWait_st (s : State) (b : Bool) : (s.setWait b).st = s.st := rfl
@[simp] theorem State.setWait_keys (s : State) (b : Bool) : (s.setWait b).keys = s.keys := rfl
@[simp] theorem State.setWait_wait (s : State) (b : Bool) : (s.setWait b).wait = b := rfl
@[simp] theorem State.setWait_fb (s : State) (b : Bool) : (s.setWait b).fb = s.fb := rfl
@[simp] theorem State.setWait_dirty (s : State) (b : Bool) : (s.setWait b).dirty = s.dirty := rfl
@[simp] theorem State.setWait_fault (s : State) (b : Bool) : (s.setWait b).fault = s.fault := rfl
@[simp] theorem State.setWait_draws (s : State) (b : Bool) : (s.setWait b).draws = s.draws := rfl
@[simp] theorem State.setWait_reg (s : State) (b : Bool) (q : Reg) : (s.setWait b).reg q = s.reg q := rfl
@[simp] theorem State.setWait_key (s : State) (b : Bool) (q : Fin 16) : (s.setWait b).key q = s.key q := rfl
@[simp] theorem State.setWait_slot (s : State) (b : Bool) (q : Fin 16) : (s.setWait b).slot q = s.slot q := rfl

/-! ### `nextDraw` -/

@[simp] theorem State.nextDraw_mem (s : State) : (s.nextDraw).mem = s.mem := rfl
@[simp] theorem State.nextDraw_v (s : State) : (s.nextDraw).v = s.v := rfl
@[simp] theorem State.nextDraw_i (s : State) : (s.nextDraw).i = s.i := rfl
@[simp] theorem State.nextDraw_pc (s : State) : (s.nextDraw).pc = s.pc := rfl
@[simp] theorem State.nextDraw_stack (s : State) : (s.nextDraw).stack = s.stack := rfl
@[simp] theorem State.nextDraw_sp (s : State) : (s.nextDraw).sp = s.sp := rfl
@[simp] theorem State.nextDraw_dt (s : State) : (s.nextDraw).dt = s.dt := rfl
@[simp] theorem State.nextDraw_st (s : State) : (s.nextDraw).st = s.st := rfl
@[simp] theorem State.nextDraw_keys (s : State) : (s.nextDraw).keys = s.keys := rfl
@[simp] theorem State.nextDraw_wait (s : State) : (s.nextDraw).wait = s.wait := rfl
@[simp] theorem State.nextDraw_fb (s : State) : (s.nextDraw).fb = s.fb := rfl
@[simp] theorem State.nextDraw_dirty (s : State) : (s.nextDraw).dirty = s.dirty := rfl
@[simp] theorem State.nextDraw_fault (s : State) : (s.nextDraw).fault = s.fault := rfl
@[simp] theorem State.nextDraw_draws (s : State) : (s.nextDraw).draws = s.draws + 1 := rfl
@[simp] theorem State.nextDraw_reg (s : State) (q : Reg) : (s.nextDraw).reg q = s.reg q := rfl
@[simp] theorem State.nextDraw_key (s : State) (q : Fin 16) : (s.nextDraw).key q = s.key q := rfl
@[simp] theorem State.nextDraw_slot (s : State) (q : Fin 16) : (s.nextDraw).slot q = s.slot q := rfl

/-! ### `setScreen` -/

@[simp] theorem State.setScreen_mem (s : State) (g : Framebuffer) : (s.setScreen g).mem = s.mem := rfl
@[simp] theorem State.setScreen_v (s : State) (g : Framebuffer) : (s.setScreen g).v = s.v := rfl
@[simp] theorem State.setScreen_i (s : State) (g : Framebuffer) : (s.setScreen g).i = s.i := rfl
@[simp] theorem State.setScreen_pc (s : State) (g : Framebuffer) : (s.setScreen g).pc = s.pc := rfl
@[simp] theorem State.setScreen_stack (s : State) (g : Framebuffer) : (s.setScreen g).stack = s.stack := rfl
@[simp] theorem State.setScreen_sp (s : State) (g : Framebuffer) : (s.setScreen g).sp = s.sp := rfl
@[simp] theorem State.setScreen_dt (s : State) (g : Framebuffer) : (s.setScreen g).dt = s.dt := rfl
@[simp] theorem State.setScreen_st (s : State) (g : Framebuffer) : (s.setScreen g).st = s.st := rfl
@[simp] theorem State.setScreen_keys (s : State) (g : Framebuffer) : (s.setScreen g).keys = s.keys := rfl
@[simp] theorem State.setScreen_wait (s : State) (g : Framebuffer) : (s.setScreen g).wait = s.wait := rfl
@[simp] theorem State.setScreen_fb (s : State) (g : Framebuffer) : (s.setScreen g).fb = g := rfl
@[simp] theorem State.setScreen_dirty (s : State) (g : Framebuffer) : (s.setScreen g).dirty = true := rfl
@[simp] theorem State.setScreen_fault (s : State) (g : Framebuffer) : (s.setScreen g).fault = s.fault := rfl
@[simp] theorem State.setScreen_draws (s : State) (g : Framebuffer) : (s.setScreen g).draws = s.draws := rfl
@[simp] theorem State.setScreen_reg (s : State) (g : Framebuffer) (q : Reg) : (s.setScreen g).reg q = s.reg q := rfl
@[simp] theorem State.setScreen_key (s : State) (g : Framebuffer) (q : Fin 16) : (s.setScreen g).key q = s.key q := rfl
@[simp] theorem State.setScreen_slot (s : State) (g : Framebuffer) (q : Fin 16) : (s.setScreen g).slot q = s.slot q := rfl

/-! ### `takeError` -/

@[simp] theorem State.takeError_mem (s : State) (k : ErrorKind) (a : Word) (op : Option Word) (n : Option Nat) : (s.takeError k a op n).mem = s.mem := rfl
@[simp] theorem State.takeError_v (s : State) (k : ErrorKind) (a : Word) (op : Option Word) (n : Option Nat) : (s.takeError k a op n).v = s.v := rfl
@[simp] theorem State.takeError_i (s : State) (k : ErrorKind) (a : Word) (op : Option Word) (n : Option Nat) : (s.takeError k a op n).i = s.i := rfl
@[simp] theorem State.takeError_pc (s : State) (k : ErrorKind) (a : Word) (op : Option Word) (n : Option Nat) : (s.takeError k a op n).pc = a := rfl
@[simp] theorem State.takeError_stack (s : State) (k : ErrorKind) (a : Word) (op : Option Word) (n : Option Nat) : (s.takeError k a op n).stack = s.stack := rfl
@[simp] theorem State.takeError_sp (s : State) (k : ErrorKind) (a : Word) (op : Option Word) (n : Option Nat) : (s.takeError k a op n).sp = s.sp := rfl
@[simp] theorem State.takeError_dt (s : State) (k : ErrorKind) (a : Word) (op : Option Word) (n : Option Nat) : (s.takeError k a op n).dt = s.dt := rfl
@[simp] theorem State.takeError_st (s : State) (k : ErrorKind) (a : Word) (op : Option Word) (n : Option Nat) : (s.takeError k a op n).st = s.st := rfl
@[simp] theorem State.takeError_keys (s : State) (k : ErrorKind) (a : Word) (op : Option Word) (n : Option Nat) : (s.takeError k a op n).keys = s.keys := rfl
@[simp] theorem State.takeError_wait (s : State) (k : ErrorKind) (a : Word) (op : Option Word) (n : Option Nat) : (s.takeError k a op n).wait = s.wait := rfl
@[simp] theorem State.takeError_fb (s : State) (k : ErrorKind) (a : Word) (op : Option Word) (n : Option Nat) : (s.takeError k a op n).fb = s.fb := rfl
@[simp] theorem State.takeError_dirty (s : State) (k : ErrorKind) (a : Word) (op : Option Word) (n : Option Nat) : (s.takeError k a op n).dirty = s.dirty := rfl
@[simp] theorem State.takeError_fault (s : State) (k : ErrorKind) (a : Word) (op : Option Word) (n : Option Nat) : (s.takeError k a op n).fault = some ⟨k, a, op, n⟩ := rfl
@[simp] theorem State.takeError_draws (s : State) (k : ErrorKind) (a : Word) (op : Option Word) (n : Option Nat) : (s.takeError k a op n).draws = s.draws := rfl
@[simp] theorem State.takeError_reg (s : State) (k : ErrorKind) (a : Word) (op : Option Word) (n : Option Nat) (q : Reg) : (s.takeError k a op n).reg q = s.reg q := rfl
@[simp] theorem State.takeError_key (s : State) (k : ErrorKind) (a : Word) (op : Option Word) (n : Option Nat) (q : Fin 16) : (s.takeError k a op n).key q = s.key q := rfl
@[simp] theorem State.takeError_slot (s : State) (k : ErrorKind) (a : Word) (op : Option Word) (n : Option Nat) (q : Fin 16) : (s.takeError k a op n).slot q = s.slot q := rfl

/-! ### `setKeys` -/

@[simp] theorem State.setKeys_mem (s : State) (k : Vector Bool 16) : (s.setKeys k).mem = s.mem := rfl
@[simp] theorem State.setKeys_v (s : State) (k : Vector Bool 16) : (s.setKeys k).v = s.v := rfl
@[simp] theorem State.setKeys_i (s : State) (k : Vector Bool 16) : (s.setKeys k).i = s.i := rfl
@[simp] theorem State.setKeys_pc (s : State) (k : Vector Bool 16) : (s.setKeys k).pc = s.pc := rfl
@[simp] theorem State.setKeys_stack (s : State) (k : Vector Bool 16) : (s.setKeys k).stack = s.stack := rfl
@[simp] theorem State.setKeys_sp (s : State) (k : Vector Bool 16) : (s.setKeys k).sp = s.sp := rfl
@[simp] theorem State.setKeys_dt (s : State) (k : Vector Bool 16) : (s.setKeys k).dt = s.dt := rfl
@[simp] theorem State.setKeys_st (s : State) (k : Vector Bool 16) : (s.setKeys k).st = s.st := rfl
@[simp] theorem State.setKeys_keys (s : State) (k : Vector Bool 16) : (s.setKeys k).keys = k := rfl
@[simp] theorem State.setKeys_wait (s : State) (k : Vector Bool 16) : (s.setKeys k).wait = s.wait := rfl
@[simp] theorem State.setKeys_fb (s : State) (k : Vector Bool 16) : (s.setKeys k).fb = s.fb := rfl
@[simp] theorem State.setKeys_dirty (s : State) (k : Vector Bool 16) : (s.setKeys k).dirty = s.dirty := rfl
@[simp] theorem State.setKeys_fault (s : State) (k : Vector Bool 16) : (s.setKeys k).fault = s.fault := rfl
@[simp] theorem State.setKeys_draws (s : State) (k : Vector Bool 16) : (s.setKeys k).draws = s.draws := rfl
@[simp] theorem State.setKeys_reg (s : State) (k : Vector Bool 16) (q : Reg) : (s.setKeys k).reg q = s.reg q := rfl
@[simp] theorem State.setKeys_slot (s : State) (k : Vector Bool 16) (q : Fin 16) : (s.setKeys k).slot q = s.slot q := rfl

/-! ### `tick` -/

@[simp] theorem State.tick_mem (s : State) : (s.tick).mem = s.mem := rfl
@[simp] theorem State.tick_v (s : State) : (s.tick).v = s.v := rfl
@[simp] theorem State.tick_i (s : State) : (s.tick).i = s.i := rfl
@[simp] theorem State.tick_pc (s : State) : (s.tick).pc = s.pc := rfl
@[simp] theorem State.tick_stack (s : State) : (s.tick).stack = s.stack := rfl
@[simp] theorem State.tick_sp (s : State) : (s.tick).sp = s.sp := rfl
@[simp] theorem State.tick_dt (s : State) : (s.tick).dt = tickTimer s.dt := rfl
@[simp] theorem State.tick_st (s : State) : (s.tick).st = tickTimer s.st := rfl
@[simp] theorem State.tick_keys (s : State) : (s.tick).keys = s.keys := rfl
@[simp] theorem State.tick_wait (s : State) : (s.tick).wait = s.wait := rfl
@[simp] theorem State.tick_fb (s : State) : (s.tick).fb = s.fb := rfl
@[simp] theorem State.tick_dirty (s : State) : (s.tick).dirty = s.dirty := rfl
@[simp] theorem State.tick_fault (s : State) : (s.tick).fault = s.fault := rfl
@[simp] theorem State.tick_draws (s : State) : (s.tick).draws = s.draws := rfl
@[simp] theorem State.tick_reg (s : State) (q : Reg) : (s.tick).reg q = s.reg q := rfl
@[simp] theorem State.tick_key (s : State) (q : Fin 16) : (s.tick).key q = s.key q := rfl
@[simp] theorem State.tick_slot (s : State) (q : Fin 16) : (s.tick).slot q = s.slot q := rfl

/-! ### `skipIf` -/

@[simp] theorem State.skipIf_mem (s : State) (c : Bool) : (s.skipIf c).mem = s.mem := by cases c <;> rfl
@[simp] theorem State.skipIf_v (s : State) (c : Bool) : (s.skipIf c).v = s.v := by cases c <;> rfl
@[simp] theorem State.skipIf_i (s : State) (c : Bool) : (s.skipIf c).i = s.i := by cases c <;> rfl
@[simp] theorem State.skipIf_pc (s : State) (c : Bool) : (s.skipIf c).pc = if c then s.pc + 2 else s.pc := by
  cases c <;> rfl
@[simp] theorem State.skipIf_stack (s : State) (c : Bool) : (s.skipIf c).stack = s.stack := by cases c <;> rfl
@[simp] theorem State.skipIf_sp (s : State) (c : Bool) : (s.skipIf c).sp = s.sp := by cases c <;> rfl
@[simp] theorem State.skipIf_dt (s : State) (c : Bool) : (s.skipIf c).dt = s.dt := by cases c <;> rfl
@[simp] theorem State.skipIf_st (s : State) (c : Bool) : (s.skipIf c).st = s.st := by cases c <;> rfl
@[simp] theorem State.skipIf_keys (s : State) (c : Bool) : (s.skipIf c).keys = s.keys := by cases c <;> rfl
@[simp] theorem State.skipIf_wait (s : State) (c : Bool) : (s.skipIf c).wait = s.wait := by cases c <;> rfl
@[simp] theorem State.skipIf_fb (s : State) (c : Bool) : (s.skipIf c).fb = s.fb := by cases c <;> rfl
@[simp] theorem State.skipIf_dirty (s : State) (c : Bool) : (s.skipIf c).dirty = s.dirty := by cases c <;> rfl
@[simp] theorem State.skipIf_fault (s : State) (c : Bool) : (s.skipIf c).fault = s.fault := by cases c <;> rfl
@[simp] theorem State.skipIf_draws (s : State) (c : Bool) : (s.skipIf c).draws = s.draws := by cases c <;> rfl

theorem State.skipIf_eq (s : State) (c : Bool) : s.skipIf c = s.setPc (if c then s.pc + 2 else s.pc) := by
  cases c <;> rfl

/-! ### Registers after a register write -/

@[simp] theorem State.setReg_reg (s : State) (r q : Reg) (b : Byte) :
    (s.setReg r b).reg q = if q = r then b else s.reg q := by
  simp only [State.reg, State.setReg, Vector.getElem_set, Fin.ext_iff, eq_comm]

@[simp] theorem State.setRegFlag_reg (s : State) (x q : Reg) (b f : Byte) :
    (s.setRegFlag x b f).reg q = if q = VF then f else if q = x then b else s.reg q := by
  simp only [State.setRegFlag, State.setReg_reg]

@[simp] theorem State.setRegs_reg (s : State) (bs : List Byte) (q : Reg) :
    (s.setRegs bs).reg q = bs.getD q.val (s.reg q) := by
  simp [State.reg, State.setRegs, fillRegs]

theorem State.getElem_v (s : State) (q : Reg) : s.v[q.val] = s.reg q := rfl

/-- `V0..=VX` at position `k` is register k. -/
theorem State.regsUpTo_getElem? (s : State) (x q : Reg) :
    (s.regsUpTo x)[q.val]? = if q ≤ x then some (s.reg q) else none := by
  simp only [State.regsUpTo, State.reg, List.getElem?_take, Fin.le_def]
  split
  · rw [if_pos (by omega)]; simp
  · rw [if_neg (by omega)]

@[simp] theorem State.regsUpTo_length (s : State) (x : Reg) : (s.regsUpTo x).length = x.val + 1 := by
  simp [State.regsUpTo]

/-! ### The call stack -/

/-- A push on a stack that is not full: the slot at SP holds the value, SP is one more (R26, R102). -/
theorem State.push_of_lt (s : State) (a : Word) (h : s.sp.val < 16) :
    s.push a = some { s with stack := s.stack.set s.sp.val a, sp := ⟨s.sp.val + 1, by omega⟩ } := by
  simp [State.push, h]

/-- A push on a full stack fails (R26, R102). -/
theorem State.push_full (s : State) (a : Word) (h : ¬s.sp.val < 16) : s.push a = none := by
  simp [State.push, h]

/-- A pop of an empty stack fails (R26, R101). -/
theorem State.pop_empty (s : State) (h : s.sp.val = 0) : s.pop = none := by
  simp [State.pop, h]

/-- A pop takes the top entry and leaves every slot as it is (R26, R101). -/
theorem State.pop_of_pos (s : State) (h : s.sp.val ≠ 0) :
    s.pop = some (s.slot ⟨s.sp.val - 1, by omega⟩, { s with sp := ⟨s.sp.val - 1, by omega⟩ }) := by
  simp [State.pop, h]

/-! ### Digits and keys -/

/-- A byte is a digit exactly when it is at most 0xF (R153, R190, R191). -/
theorem digitOf_eq_some (b : Byte) (d : Fin 16) : digitOf b = some d ↔ b.toNat = d.val := by
  unfold digitOf
  split
  · simp [Fin.ext_iff]
  · simp; omega

theorem digitOf_eq_none (b : Byte) : digitOf b = none ↔ 0xF < b.toNat := by
  unfold digitOf
  split <;> simp <;> omega

/-- No key is pressed (R192). -/
theorem State.firstKey_eq_none (s : State) : s.firstKey = none ↔ ∀ k, s.key k = false := by
  simp [State.firstKey, List.find?_eq_none]

/-- The least pressed key (R192). -/
theorem State.firstKey_eq_some (s : State) (k : Fin 16) :
    s.firstKey = some k ↔ s.key k = true ∧ ∀ j, j < k → s.key j = false := by
  unfold State.firstKey
  rw [List.find?_eq_some_iff_getElem]
  constructor
  · rintro ⟨hk, i, hi, rfl, hj⟩
    refine ⟨hk, fun j hjk => ?_⟩
    have := hj j.val (by simpa [Fin.lt_def] using hjk)
    simpa using this
  · rintro ⟨hk, hj⟩
    refine ⟨hk, k.val, by simp, by simp, fun j hjk => ?_⟩
    simpa using hj ⟨j, by omega⟩ (by simpa [Fin.lt_def] using hjk)

end Sys2Proof.Machine
end

