-- ==== Sys2Proof/Laws/Step.lean ====
section
/-! SUPPORT. What an instruction can answer: it completes and leaves FAULT alone, or it raises one well-formed error. -/

namespace Sys2Proof.Machine

/-- A run of one step more, when that step answers a next state. -/
theorem core_run_succ (n : Nat) {s t : State} (h : step s = .next t) :
    Sys2Proof.core.run (n + 1) s = Sys2Proof.core.run n t := by
  have hs : Sys2Proof.core.step s = .next t := h
  simp only [Host.Core.run, hs]

theorem raise_eq (k : ErrorKind) (i : Instr) (a : Option Nat) (s : State) :
    raise k i a s = .next (s.takeError k (s.pc - 2) (some (encode i)) a) := rfl

/-- `advance` is the fetch's write to PC (R80). -/
theorem State.advance_eq (s : State) : s.advance = { s with pc := s.pc + 2 } := rfl

/-- PC back from `a + 2` to `a` (R213). -/
theorem State.advance_pc_sub (s : State) : s.advance.pc - 2 = s.pc := by
  simp [State.advance, State.setPc]

/-- Taking back the fetch's write to PC leaves only FAULT changed (R213). -/
theorem State.advance_takeError (s : State) (k : ErrorKind) (op : Option Word) (a : Option Nat) :
    s.advance.takeError k (s.advance.pc - 2) op a = { s with fault := some ⟨k, s.pc, op, a⟩ } := by
  rw [State.advance_pc_sub]; rfl

/-- Every instruction completes with FAULT as it was, or raises one error of a well-formed kind (R210, R215). -/
theorem exec_next_or_raise (i : Instr) (s : State) :
    (∃ t, exec i s = .next t ∧ t.fault = s.fault) ∨
      ∃ k a, exec i s = raise k i a s ∧ ErrorRecord.WellFormed ⟨k, s.pc - 2, some (encode i), a⟩ := by
  cases i
  case ret =>
    simp only [exec, execRet]
    by_cases h : s.sp.val = 0
    · rw [State.pop_empty s h]; exact .inr ⟨_, _, rfl, rfl, rfl⟩
    · rw [State.pop_of_pos s h]; exact .inl ⟨_, rfl, rfl⟩
  case call nnn =>
    simp only [exec, execCall]
    by_cases h : s.sp.val < 16
    · rw [State.push_of_lt s _ h]; exact .inl ⟨_, rfl, rfl⟩
    · rw [State.push_full s _ h]; exact .inr ⟨_, _, rfl, rfl, nnn, rfl⟩
  case addIVx x =>
    simp only [exec, execAddIVx]
    split
    · exact .inr ⟨_, _, rfl, _, rfl, by omega⟩
    · exact .inl ⟨_, rfl, rfl⟩
  case ldFVx x =>
    simp only [exec, execLdFVx]
    cases h : digitOf (s.reg x) with
    | none => exact .inr ⟨_, _, rfl, _, rfl, (digitOf_eq_none _).mp h⟩
    | some d => exact .inl ⟨_, rfl, rfl⟩
  case skp x =>
    simp only [exec, execSkp]
    cases h : digitOf (s.reg x) with
    | none => exact .inr ⟨_, _, rfl, _, rfl, (digitOf_eq_none _).mp h⟩
    | some d => exact .inl ⟨_, rfl, State.skipIf_fault _ _⟩
  case sknp x =>
    simp only [exec, execSknp]
    cases h : digitOf (s.reg x) with
    | none => exact .inr ⟨_, _, rfl, _, rfl, (digitOf_eq_none _).mp h⟩
    | some d => exact .inl ⟨_, rfl, State.skipIf_fault _ _⟩
  case ldBVx x =>
    simp only [exec, execLdBVx]
    cases h : s.mem.store (s.effAddr 0) (bcdDigits (s.reg x)) with
    | error a => exact .inr ⟨_, _, rfl, _, rfl, by have := (Memory.store_eq_error _ _ _ _).mp h; omega⟩
    | ok m => exact .inl ⟨_, rfl, rfl⟩
  case ldMIVx x =>
    simp only [exec, execLdMIVx]
    cases h : s.mem.store (s.effAddr 0) (s.regsUpTo x) with
    | error a => exact .inr ⟨_, _, rfl, _, rfl, by have := (Memory.store_eq_error _ _ _ _).mp h; omega⟩
    | ok m => exact .inl ⟨_, rfl, rfl⟩
  case ldVxMI x =>
    simp only [exec, execLdVxMI]
    cases h : s.mem.load (s.effAddr 0) (x.val + 1) with
    | error a => exact .inr ⟨_, _, rfl, _, rfl, by have := (Memory.load_eq_error _ _ _ _).mp h; omega⟩
    | ok bs => exact .inl ⟨_, rfl, rfl⟩
  case drw x y n =>
    simp only [exec, execDrw]
    cases h : s.mem.load (s.effAddr 0) n with
    | error a => exact .inr ⟨_, _, rfl, _, rfl, by have := (Memory.load_eq_error _ _ _ _).mp h; omega⟩
    | ok bs => exact .inl ⟨_, rfl, rfl⟩
  case ldVxK x =>
    simp only [exec, execLdVxK]
    cases h : s.firstKey with
    | none => exact .inl ⟨_, rfl, rfl⟩
    | some k => exact .inl ⟨_, rfl, rfl⟩
  all_goals exact .inl ⟨_, rfl, by simp [rndWith]⟩

end Sys2Proof.Machine
end

