-- ==== Sys2Proof/Laws/Effect.lean ====
section
/-! SUPPORT. All that an instruction can do to the state, said once by shape: what a proof about every instruction splits
on, in place of unfolding the meanings. -/

namespace Sys2Proof.Machine

/-- The state an instruction answers, by the shape of its effect. -/
inductive Effect (s : State) : Instr → State → Prop
  | raises (i : Instr) (k : ErrorKind) (a : Option Nat)
      (h : ErrorRecord.WellFormed ⟨k, s.pc - 2, some (encode i), a⟩) :
      Effect s i (s.takeError k (s.pc - 2) (some (encode i)) a)
  | skips (i : Instr) (c : Bool) (h : i.transfersControl = true) : Effect s i (s.skipIf c)
  | writes (i : Instr) (x : Reg) (b : Byte) (h : i.writtenRegs = [x]) : Effect s i (s.setReg x b)
  | writesFlag (i : Instr) (x : Reg) (b f : Byte) (h : i.writtenRegs = [x, VF]) : Effect s i (s.setRegFlag x b f)
  | draws (x : Reg) (nn b : Byte) : Effect s (.rnd x nn) ((s.setReg x b).nextDraw)
  | keyArrives (x : Reg) (b : Byte) : Effect s (.ldVxK x) ((s.setReg x b).setWait false)
  | keyWaits (x : Reg) : Effect s (.ldVxK x) ((s.setPc (s.pc - 2)).setWait true)
  | jumps (nnn : Addr) : Effect s (.jp nnn) (s.setPc (zext16 nnn))
  | calls (nnn : Addr) (h : s.sp.val < 16) :
      Effect s (.call nnn)
        ({ s with stack := s.stack.set s.sp.val s.pc, sp := ⟨s.sp.val + 1, by omega⟩ }.setPc (zext16 nnn))
  | returns (h : s.sp.val ≠ 0) :
      Effect s .ret ({ s with sp := ⟨s.sp.val - 1, by omega⟩ }.setPc (s.slot ⟨s.sp.val - 1, by omega⟩))
  | writesIndex (i : Instr) (a : Word) (h : i.writesIndex = true) : Effect s i (s.setI a)
  | storesDigits (x : Reg) (m : Memory) (h : s.mem.store (s.effAddr 0) (bcdDigits (s.reg x)) = .ok m) :
      Effect s (.ldBVx x) (s.setMem m)
  | storesRegs (x : Reg) (m : Memory) (h : s.mem.store (s.effAddr 0) (s.regsUpTo x) = .ok m) :
      Effect s (.ldMIVx x) (s.setMem m)
  | loadsRegs (x : Reg) (bs : List Byte) (h : s.mem.load (s.effAddr 0) (x.val + 1) = .ok bs) :
      Effect s (.ldVxMI x) (s.setRegs bs)
  | setsDelay (x : Reg) : Effect s (.ldDtVx x) (s.setDt (s.reg x))
  | setsSound (x : Reg) : Effect s (.ldStVx x) (s.setSt (s.reg x))
  | clears : Effect s .cls (s.setScreen Framebuffer.blank)
  | paints (x y : Reg) (n : Nat) (fb : Framebuffer) (f : Byte) : Effect s (.drw x y n) ((s.setScreen fb).setReg VF f)

/-- Whatever an instruction answers, it is one of these effects. -/
theorem exec_effect {i : Instr} {s t : State} (h : exec i s = .next t) : Effect s i t := by
  rcases exec_next_or_raise i s with ⟨u, hu, hf⟩ | ⟨k, a, hr, hw⟩
  swap
  · rw [hr, raise_eq] at h; cases h; exact .raises i k a hw
  obtain rfl : u = t := by rw [h] at hu; cases hu; rfl
  clear hf hu
  cases i <;> simp only [exec] at h
  case ret =>
    simp only [execRet] at h
    by_cases hs : s.sp.val = 0
    · rw [State.pop_empty s hs] at h; cases h; exact .raises _ _ _ ⟨rfl, rfl⟩
    · rw [State.pop_of_pos s hs] at h; cases h; exact .returns hs
  case call nnn =>
    simp only [execCall] at h
    by_cases hs : s.sp.val < 16
    · rw [State.push_of_lt s _ hs] at h; cases h; exact .calls nnn hs
    · rw [State.push_full s _ hs] at h; cases h; exact .raises _ _ _ ⟨rfl, nnn, rfl⟩
  case addIVx x =>
    simp only [execAddIVx] at h
    split at h
    · cases h; exact .raises _ _ _ ⟨_, rfl, by omega⟩
    · cases h; exact .writesIndex _ _ rfl
  case ldFVx x =>
    simp only [execLdFVx] at h
    cases hd : digitOf (s.reg x) <;> rw [hd] at h <;> cases h
    · exact .raises _ _ _ ⟨_, rfl, (digitOf_eq_none _).mp hd⟩
    · exact .writesIndex _ _ rfl
  case skp x =>
    simp only [execSkp] at h
    cases hd : digitOf (s.reg x) <;> rw [hd] at h <;> cases h
    · exact .raises _ _ _ ⟨_, rfl, (digitOf_eq_none _).mp hd⟩
    · exact .skips _ _ rfl
  case sknp x =>
    simp only [execSknp] at h
    cases hd : digitOf (s.reg x) <;> rw [hd] at h <;> cases h
    · exact .raises _ _ _ ⟨_, rfl, (digitOf_eq_none _).mp hd⟩
    · exact .skips _ _ rfl
  case ldBVx x =>
    simp only [execLdBVx] at h
    cases hm : s.mem.store (s.effAddr 0) (bcdDigits (s.reg x)) <;> rw [hm] at h <;> cases h
    · exact .raises _ _ _ ⟨_, rfl, by have := (Memory.store_eq_error _ _ _ _).mp hm; omega⟩
    · exact .storesDigits x _ hm
  case ldMIVx x =>
    simp only [execLdMIVx] at h
    cases hm : s.mem.store (s.effAddr 0) (s.regsUpTo x) <;> rw [hm] at h <;> cases h
    · exact .raises _ _ _ ⟨_, rfl, by have := (Memory.store_eq_error _ _ _ _).mp hm; omega⟩
    · exact .storesRegs x _ hm
  case ldVxMI x =>
    simp only [execLdVxMI] at h
    cases hm : s.mem.load (s.effAddr 0) (x.val + 1) <;> rw [hm] at h <;> cases h
    · exact .raises _ _ _ ⟨_, rfl, by have := (Memory.load_eq_error _ _ _ _).mp hm; omega⟩
    · exact .loadsRegs x _ hm
  case drw x y n =>
    simp only [execDrw] at h
    cases hm : s.mem.load (s.effAddr 0) n <;> rw [hm] at h <;> cases h
    · exact .raises _ _ _ ⟨_, rfl, by have := (Memory.load_eq_error _ _ _ _).mp hm; omega⟩
    · exact .paints x y n _ _
  case ldVxK x =>
    simp only [execLdVxK] at h
    cases hk : s.firstKey <;> rw [hk] at h <;> cases h
    · exact .keyWaits x
    · exact .keyArrives x _
  case cls => cases h; exact .clears
  case jp nnn => cases h; exact .jumps nnn
  case rnd x nn => cases h; exact .draws x nn _
  case ldDtVx x => cases h; exact .setsDelay x
  case ldStVx x => cases h; exact .setsSound x
  case ldI nnn => cases h; exact .writesIndex _ _ rfl
  case ldIV0 nnn => cases h; exact .writesIndex _ _ rfl
  case ldVxDt x => cases h; exact .writes _ x _ rfl
  all_goals first
    | (cases h; exact .skips _ _ rfl)
    | (cases h; exact .writes _ _ _ rfl)
    | (cases h; exact .writesFlag _ _ _ _ rfl)

end Sys2Proof.Machine
end

