-- ==== Sys2Proof/Laws/PerInstr.lean ====
section
/-! SUPPORT. The per-instruction family `TableRow`: the word of every instruction is a word of that instruction's row of
spec/opcode_table.json (R82: `op & mask = match`). -/

namespace Sys2Proof

/-- A word is of a row exactly when masking it gives the row's pattern (R82). -/
theorem OpcodeRow.matchesWord_iff (r : OpcodeRow) (op : Word) :
    r.matchesWord op = true ↔ (op &&& r.mask).toNat = r.pattern.toNat := by
  simp [OpcodeRow.matchesWord, BitVec.toNat_eq]

/-- The family's statement: the encoding of an instruction lies in its row of the table. -/
def Laws.TableRow.Statement (i : Instr) : Prop := i.row.matchesWord (encode i) = true

/-- Rows that fix the first nibble only (formats nnn, xnn, xyn). -/
theorem matches_F000 (m : String) (op pattern : Word) (g : Nat) (h : op.toNat / 4096 = g) (hg : g < 16)
    (hp : pattern.toNat = 4096 * g) : OpcodeRow.matchesWord ⟨m, 0xF000, pattern⟩ op = true := by
  rw [OpcodeRow.matchesWord_iff, hp]
  change (op &&& 0xF000#16).toNat = _
  rw [and_F000_toNat, group_eq, h, Nat.mod_eq_of_lt hg]

/-- Rows that fix the first and the fourth nibble (formats xy0, xyf). -/
theorem matches_F00F (m : String) (op pattern : Word) (g k : Nat) (h : op.toNat / 4096 = g) (hg : g < 16)
    (hk : op.toNat % 16 = k) (hp : pattern.toNat = 4096 * g + k) :
    OpcodeRow.matchesWord ⟨m, 0xF00F, pattern⟩ op = true := by
  rw [OpcodeRow.matchesWord_iff, hp]
  change (op &&& 0xF00F#16).toNat = _
  rw [and_F00F_toNat, group_eq, fieldN_eq, h, hk, Nat.mod_eq_of_lt hg]

/-- Rows that fix the first nibble and the low byte (format xkk). -/
theorem matches_F0FF (m : String) (op pattern : Word) (g k : Nat) (h : op.toNat / 4096 = g) (hg : g < 16)
    (hk : op.toNat % 256 = k) (hp : pattern.toNat = 4096 * g + k) :
    OpcodeRow.matchesWord ⟨m, 0xF0FF, pattern⟩ op = true := by
  rw [OpcodeRow.matchesWord_iff, hp]
  change (op &&& 0xF0FF#16).toNat = _
  rw [and_F0FF_toNat, group_eq, lowByte_eq, h, hk, Nat.mod_eq_of_lt hg]

theorem Laws.TableRow.cls : Laws.TableRow.Statement .cls := rfl

theorem Laws.TableRow.ret : Laws.TableRow.Statement .ret := rfl

theorem Laws.TableRow.jp (nnn : Addr) : Laws.TableRow.Statement (.jp nnn) := by
  have h := wordNNN_toNat 0x1 (by decide) nnn
  have := nnn.isLt
  exact matches_F000 _ _ _ 0x1 (by simp only [encode]; omega) (by decide) rfl

theorem Laws.TableRow.call (nnn : Addr) : Laws.TableRow.Statement (.call nnn) := by
  have h := wordNNN_toNat 0x2 (by decide) nnn
  have := nnn.isLt
  exact matches_F000 _ _ _ 0x2 (by simp only [encode]; omega) (by decide) rfl

theorem Laws.TableRow.seImm (x : Reg) (nn : Byte) : Laws.TableRow.Statement (.seImm x nn) := by
  have h := wordXNN_toNat 0x3 (by decide) x nn
  have := nn.isLt
  exact matches_F000 _ _ _ 0x3 (by simp only [encode]; omega) (by decide) rfl

theorem Laws.TableRow.sneImm (x : Reg) (nn : Byte) : Laws.TableRow.Statement (.sneImm x nn) := by
  have h := wordXNN_toNat 0x4 (by decide) x nn
  have := nn.isLt
  exact matches_F000 _ _ _ 0x4 (by simp only [encode]; omega) (by decide) rfl

theorem Laws.TableRow.seReg (x : Reg) (y : Reg) : Laws.TableRow.Statement (.seReg x y) := by
  have h := wordXYN_toNat 0x5 (by decide) x y 0x0
  exact matches_F00F _ _ _ 0x5 0x0 (by simp only [encode]; omega) (by decide) (by simp only [encode]; omega) rfl

theorem Laws.TableRow.ldImm (x : Reg) (nn : Byte) : Laws.TableRow.Statement (.ldImm x nn) := by
  have h := wordXNN_toNat 0x6 (by decide) x nn
  have := nn.isLt
  exact matches_F000 _ _ _ 0x6 (by simp only [encode]; omega) (by decide) rfl

theorem Laws.TableRow.addImm (x : Reg) (nn : Byte) : Laws.TableRow.Statement (.addImm x nn) := by
  have h := wordXNN_toNat 0x7 (by decide) x nn
  have := nn.isLt
  exact matches_F000 _ _ _ 0x7 (by simp only [encode]; omega) (by decide) rfl

theorem Laws.TableRow.ldReg (x : Reg) (y : Reg) : Laws.TableRow.Statement (.ldReg x y) := by
  have h := wordXYN_toNat 0x8 (by decide) x y 0x0
  exact matches_F00F _ _ _ 0x8 0x0 (by simp only [encode]; omega) (by decide) (by simp only [encode]; omega) rfl

theorem Laws.TableRow.orReg (x : Reg) (y : Reg) : Laws.TableRow.Statement (.orReg x y) := by
  have h := wordXYN_toNat 0x8 (by decide) x y 0x1
  exact matches_F00F _ _ _ 0x8 0x1 (by simp only [encode]; omega) (by decide) (by simp only [encode]; omega) rfl

theorem Laws.TableRow.andReg (x : Reg) (y : Reg) : Laws.TableRow.Statement (.andReg x y) := by
  have h := wordXYN_toNat 0x8 (by decide) x y 0x2
  exact matches_F00F _ _ _ 0x8 0x2 (by simp only [encode]; omega) (by decide) (by simp only [encode]; omega) rfl

theorem Laws.TableRow.xorReg (x : Reg) (y : Reg) : Laws.TableRow.Statement (.xorReg x y) := by
  have h := wordXYN_toNat 0x8 (by decide) x y 0x3
  exact matches_F00F _ _ _ 0x8 0x3 (by simp only [encode]; omega) (by decide) (by simp only [encode]; omega) rfl

theorem Laws.TableRow.addReg (x : Reg) (y : Reg) : Laws.TableRow.Statement (.addReg x y) := by
  have h := wordXYN_toNat 0x8 (by decide) x y 0x4
  exact matches_F00F _ _ _ 0x8 0x4 (by simp only [encode]; omega) (by decide) (by simp only [encode]; omega) rfl

theorem Laws.TableRow.sub (x : Reg) (y : Reg) : Laws.TableRow.Statement (.sub x y) := by
  have h := wordXYN_toNat 0x8 (by decide) x y 0x5
  exact matches_F00F _ _ _ 0x8 0x5 (by simp only [encode]; omega) (by decide) (by simp only [encode]; omega) rfl

theorem Laws.TableRow.shr (x : Reg) (y : Reg) : Laws.TableRow.Statement (.shr x y) := by
  have h := wordXYN_toNat 0x8 (by decide) x y 0x6
  exact matches_F00F _ _ _ 0x8 0x6 (by simp only [encode]; omega) (by decide) (by simp only [encode]; omega) rfl

theorem Laws.TableRow.subn (x : Reg) (y : Reg) : Laws.TableRow.Statement (.subn x y) := by
  have h := wordXYN_toNat 0x8 (by decide) x y 0x7
  exact matches_F00F _ _ _ 0x8 0x7 (by simp only [encode]; omega) (by decide) (by simp only [encode]; omega) rfl

theorem Laws.TableRow.shl (x : Reg) (y : Reg) : Laws.TableRow.Statement (.shl x y) := by
  have h := wordXYN_toNat 0x8 (by decide) x y 0xE
  exact matches_F00F _ _ _ 0x8 0xE (by simp only [encode]; omega) (by decide) (by simp only [encode]; omega) rfl

theorem Laws.TableRow.sneReg (x : Reg) (y : Reg) : Laws.TableRow.Statement (.sneReg x y) := by
  have h := wordXYN_toNat 0x9 (by decide) x y 0x0
  exact matches_F00F _ _ _ 0x9 0x0 (by simp only [encode]; omega) (by decide) (by simp only [encode]; omega) rfl

theorem Laws.TableRow.ldI (nnn : Addr) : Laws.TableRow.Statement (.ldI nnn) := by
  have h := wordNNN_toNat 0xA (by decide) nnn
  have := nnn.isLt
  exact matches_F000 _ _ _ 0xA (by simp only [encode]; omega) (by decide) rfl

theorem Laws.TableRow.ldIV0 (nnn : Addr) : Laws.TableRow.Statement (.ldIV0 nnn) := by
  have h := wordNNN_toNat 0xB (by decide) nnn
  have := nnn.isLt
  exact matches_F000 _ _ _ 0xB (by simp only [encode]; omega) (by decide) rfl

theorem Laws.TableRow.rnd (x : Reg) (nn : Byte) : Laws.TableRow.Statement (.rnd x nn) := by
  have h := wordXNN_toNat 0xC (by decide) x nn
  have := nn.isLt
  exact matches_F000 _ _ _ 0xC (by simp only [encode]; omega) (by decide) rfl

theorem Laws.TableRow.drw (x : Reg) (y : Reg) (n : Nat) : Laws.TableRow.Statement (.drw x y n) := by
  have h := wordXYN_toNat 0xD (by decide) x y n
  exact matches_F000 _ _ _ 0xD (by simp only [encode]; omega) (by decide) rfl

theorem Laws.TableRow.skp (x : Reg) : Laws.TableRow.Statement (.skp x) := by
  have h := wordXKK_toNat 0xE (by decide) x 0x9E (by decide)
  exact matches_F0FF _ _ _ 0xE 0x9E (by simp only [encode]; omega) (by decide) (by simp only [encode]; omega) rfl

theorem Laws.TableRow.sknp (x : Reg) : Laws.TableRow.Statement (.sknp x) := by
  have h := wordXKK_toNat 0xE (by decide) x 0xA1 (by decide)
  exact matches_F0FF _ _ _ 0xE 0xA1 (by simp only [encode]; omega) (by decide) (by simp only [encode]; omega) rfl

theorem Laws.TableRow.ldVxDt (x : Reg) : Laws.TableRow.Statement (.ldVxDt x) := by
  have h := wordXKK_toNat 0xF (by decide) x 0x7 (by decide)
  exact matches_F0FF _ _ _ 0xF 0x7 (by simp only [encode]; omega) (by decide) (by simp only [encode]; omega) rfl

theorem Laws.TableRow.ldVxK (x : Reg) : Laws.TableRow.Statement (.ldVxK x) := by
  have h := wordXKK_toNat 0xF (by decide) x 0xA (by decide)
  exact matches_F0FF _ _ _ 0xF 0xA (by simp only [encode]; omega) (by decide) (by simp only [encode]; omega) rfl

theorem Laws.TableRow.ldDtVx (x : Reg) : Laws.TableRow.Statement (.ldDtVx x) := by
  have h := wordXKK_toNat 0xF (by decide) x 0x15 (by decide)
  exact matches_F0FF _ _ _ 0xF 0x15 (by simp only [encode]; omega) (by decide) (by simp only [encode]; omega) rfl

theorem Laws.TableRow.ldStVx (x : Reg) : Laws.TableRow.Statement (.ldStVx x) := by
  have h := wordXKK_toNat 0xF (by decide) x 0x18 (by decide)
  exact matches_F0FF _ _ _ 0xF 0x18 (by simp only [encode]; omega) (by decide) (by simp only [encode]; omega) rfl

theorem Laws.TableRow.addIVx (x : Reg) : Laws.TableRow.Statement (.addIVx x) := by
  have h := wordXKK_toNat 0xF (by decide) x 0x1E (by decide)
  exact matches_F0FF _ _ _ 0xF 0x1E (by simp only [encode]; omega) (by decide) (by simp only [encode]; omega) rfl

theorem Laws.TableRow.ldFVx (x : Reg) : Laws.TableRow.Statement (.ldFVx x) := by
  have h := wordXKK_toNat 0xF (by decide) x 0x29 (by decide)
  exact matches_F0FF _ _ _ 0xF 0x29 (by simp only [encode]; omega) (by decide) (by simp only [encode]; omega) rfl

theorem Laws.TableRow.ldBVx (x : Reg) : Laws.TableRow.Statement (.ldBVx x) := by
  have h := wordXKK_toNat 0xF (by decide) x 0x33 (by decide)
  exact matches_F0FF _ _ _ 0xF 0x33 (by simp only [encode]; omega) (by decide) (by simp only [encode]; omega) rfl

theorem Laws.TableRow.ldMIVx (x : Reg) : Laws.TableRow.Statement (.ldMIVx x) := by
  have h := wordXKK_toNat 0xF (by decide) x 0x55 (by decide)
  exact matches_F0FF _ _ _ 0xF 0x55 (by simp only [encode]; omega) (by decide) (by simp only [encode]; omega) rfl

theorem Laws.TableRow.ldVxMI (x : Reg) : Laws.TableRow.Statement (.ldVxMI x) := by
  have h := wordXKK_toNat 0xF (by decide) x 0x65 (by decide)
  exact matches_F0FF _ _ _ 0xF 0x65 (by simp only [encode]; omega) (by decide) (by simp only [encode]; omega) rfl

end Sys2Proof
end

