-- ==== Sys2Proof/Machine/Assembler.lean ====
section
/-! DEFINITION. The assembler syntax of the spec's listings (spec 30_encoding.md R87): how an instruction is written. It has
no effect on the machine (D30). -/

namespace Sys2Proof.Machine

/-- A hex digit, upper case. -/
def hexDigit (n : Nat) : String := String.singleton ("0123456789ABCDEF".toList.getD n '?')

/-- A register operand, V0 to VF (R87). -/
def asmReg (r : Reg) : String := "V" ++ hexDigit r.val

/-- A constant nn, two hex digits (R87). -/
def asmByte (b : Byte) : String := "0x" ++ hexDigit (b.toNat / 16) ++ hexDigit (b.toNat % 16)

/-- An address nnn, three hex digits (R87). -/
def asmAddr (a : Addr) : String :=
  "0x" ++ hexDigit (a.toNat / 256) ++ hexDigit (a.toNat / 16 % 16) ++ hexDigit (a.toNat % 16)

/-- A mnemonic with one operand. -/
def asm1 (mnemonic operand : String) : String := mnemonic ++ " " ++ operand

/-- A mnemonic with two operands. -/
def asm2 (mnemonic first second : String) : String := mnemonic ++ " " ++ first ++ ", " ++ second

/-- An instruction as the spec's listings write it (R87); DXYN's row count in decimal (log 21). -/
def assembly : Instr → String
  | .cls => "CLS"
  | .ret => "RET"
  | .jp nnn => asm1 "JP" (asmAddr nnn)
  | .call nnn => asm1 "CALL" (asmAddr nnn)
  | .seImm x nn => asm2 "SE" (asmReg x) (asmByte nn)
  | .sneImm x nn => asm2 "SNE" (asmReg x) (asmByte nn)
  | .seReg x y => asm2 "SE" (asmReg x) (asmReg y)
  | .ldImm x nn => asm2 "LD" (asmReg x) (asmByte nn)
  | .addImm x nn => asm2 "ADD" (asmReg x) (asmByte nn)
  | .ldReg x y => asm2 "LD" (asmReg x) (asmReg y)
  | .orReg x y => asm2 "OR" (asmReg x) (asmReg y)
  | .andReg x y => asm2 "AND" (asmReg x) (asmReg y)
  | .xorReg x y => asm2 "XOR" (asmReg x) (asmReg y)
  | .addReg x y => asm2 "ADD" (asmReg x) (asmReg y)
  | .sub x y => asm2 "SUB" (asmReg x) (asmReg y)
  | .shr x y => asm2 "SHR" (asmReg x) (asmReg y)
  | .subn x y => asm2 "SUBN" (asmReg x) (asmReg y)
  | .shl x y => asm2 "SHL" (asmReg x) (asmReg y)
  | .sneReg x y => asm2 "SNE" (asmReg x) (asmReg y)
  | .ldI nnn => asm2 "LD" "I" (asmAddr nnn)
  | .ldIV0 nnn => asm2 "LD" "I" (asmAddr nnn ++ " + V0")
  | .rnd x nn => asm2 "RND" (asmReg x) (asmByte nn)
  | .drw x y n => asm2 "DRW" (asmReg x) (asmReg y) ++ ", " ++ toString n
  | .skp x => asm1 "SKP" (asmReg x)
  | .sknp x => asm1 "SKNP" (asmReg x)
  | .ldVxDt x => asm2 "LD" (asmReg x) "DT"
  | .ldVxK x => asm2 "LD" (asmReg x) "K"
  | .ldDtVx x => asm2 "LD" "DT" (asmReg x)
  | .ldStVx x => asm2 "LD" "ST" (asmReg x)
  | .addIVx x => asm2 "ADD" "I" (asmReg x)
  | .ldFVx x => asm2 "LD" "F" (asmReg x)
  | .ldBVx x => asm2 "LD" "B" (asmReg x)
  | .ldMIVx x => asm2 "LD" "[I]" (asmReg x)
  | .ldVxMI x => asm2 "LD" (asmReg x) "[I]"

end Sys2Proof.Machine
end

