-- ==== Sys2Proof/Tests/Slice0.lean ====
section
/-! SUPPORT. Tests. Expected results are those of spec/95_test_vectors.md, named by the vector's id in a comment, or are
worked out by hand from the rule a comment names. The witnesses at the end show that the hypotheses of every statement are
met, at the boundaries of their clauses. -/

namespace Sys2Proof.Tests

open Sys2Proof Sys2Proof.Machine

/-- The outcome is a next state with a property. -/
def nextIs (o : Result) (p : State → Bool) : Bool :=
  match o with
  | .next s => p s
  | .fault _ => false
  | .refused _ => false

/-- Everything but the framebuffer is the same. -/
def sameButScreen (s t : State) : Bool :=
  s.mem == t.mem && s.v == t.v && s.i == t.i && s.pc == t.pc && s.stack == t.stack && s.sp == t.sp && s.dt == t.dt &&
    s.st == t.st && s.keys == t.keys && s.wait == t.wait && s.dirty == t.dirty && s.fault == t.fault && s.draws == t.draws

/-- A step of the word `w`, placed in the state after reset as `setup` changes it, has exactly the listed effect (the
framebuffer is looked at by the display tests only). -/
def runs (w : Nat) (setup effect : State → State) : Bool :=
  let s := (setup State.reset).withFetchWord 16 w
  nextIs (step s) (sameButScreen (effect s))

/-- A step of the word `w` from 0x200 raises the error and changes nothing else. -/
def faults (w : Nat) (setup : State → State) (kind : ErrorKind) (addr : Option Nat) : Bool :=
  runs w setup fun s => { s with fault := some ⟨kind, 0x200, some (BitVec.ofNat 16 w), addr⟩ }

/-- `V[r] = b` in a test's start or end state. -/
def v (r : Fin 16) (b : Byte) (s : State) : State := { s with v := s.v.set r.val b }

/-- PC in a test's end state. -/
def pc (a : Word) (s : State) : State := { s with pc := a }

/-- I and the bytes from it, in a test's start state. -/
def data (a : Word) (bs : List Byte) (s : State) : State :=
  { s with i := a, mem := (List.range bs.length).map fun k => (a.toNat + k, bs.getD k 0) }

/-- The key latch with these keys pressed. -/
def pressed (ks : List (Fin 16)) (s : State) : State := { s with keys := Vector.ofFn fun k => decide (k ∈ ks) }

/-- A framebuffer with these cells set. -/
def cells (l : List (Fin 64 × Fin 32)) : Framebuffer :=
  l.foldl (fun fb c => fb.setCell c.1 c.2 true) State.reset.fb

/-! ### Well-formedness (R73) -/

theorem test_wf_refuses_sixteen_rows : (Instr.drw 0 0 16).wf = false := by decide
theorem test_wf_accepts_fifteen_rows : (Instr.drw 0xF 0xF 15).wf = true := by decide

/-! ### Decoding: every row, by words of spec/95_test_vectors.md and of the bit layout of R71 -/

theorem test_decode_flow :
    decodeWord 0x00EE = .ok .ret ∧ decodeWord 0x1208 = .ok (.jp 0x208) ∧ decodeWord 0x2300 = .ok (.call 0x300) ∧
    decodeWord 0x3310 = .ok (.seImm 3 0x10) ∧ decodeWord 0x4311 = .ok (.sneImm 3 0x11) ∧
    decodeWord 0x5120 = .ok (.seReg 1 2) ∧ decodeWord 0x9120 = .ok (.sneReg 1 2) := by decide

theorem test_decode_alu :
    decodeWord 0x6A2F = .ok (.ldImm 0xA 0x2F) ∧ decodeWord 0x7501 = .ok (.addImm 5 1) ∧
    decodeWord 0x8120 = .ok (.ldReg 1 2) ∧ decodeWord 0x8121 = .ok (.orReg 1 2) ∧
    decodeWord 0x8122 = .ok (.andReg 1 2) ∧ decodeWord 0x8123 = .ok (.xorReg 1 2) ∧
    decodeWord 0x8AB4 = .ok (.addReg 0xA 0xB) ∧ decodeWord 0x8CD5 = .ok (.sub 0xC 0xD) ∧
    decodeWord 0x8456 = .ok (.shr 4 5) ∧ decodeWord 0x8ED7 = .ok (.subn 0xE 0xD) ∧
    decodeWord 0x8DCE = .ok (.shl 0xD 0xC) ∧ decodeWord 0xC30F = .ok (.rnd 3 0x0F) := by decide

theorem test_decode_index :
    decodeWord 0xA2F0 = .ok (.ldI 0x2F0) ∧ decodeWord 0xBFFF = .ok (.ldIV0 0xFFF) ∧
    decodeWord 0xF21E = .ok (.addIVx 2) ∧ decodeWord 0xFA29 = .ok (.ldFVx 0xA) ∧ decodeWord 0xF033 = .ok (.ldBVx 0) ∧
    decodeWord 0xFF55 = .ok (.ldMIVx 0xF) ∧ decodeWord 0xF265 = .ok (.ldVxMI 2) := by decide

theorem test_decode_display_keys_timers :
    decodeWord 0x00E0 = .ok .cls ∧ decodeWord 0xD125 = .ok (.drw 1 2 5) ∧ decodeWord 0xE59E = .ok (.skp 5) ∧
    decodeWord 0xE5A1 = .ok (.sknp 5) ∧ decodeWord 0xF30A = .ok (.ldVxK 3) ∧ decodeWord 0xF307 = .ok (.ldVxDt 3) ∧
    decodeWord 0xF315 = .ok (.ldDtVx 3) ∧ decodeWord 0xF318 = .ok (.ldStVx 3) := by decide

/-- Bit by bit: group 1011 with nnn = 0001 0010 0011, and group 1000 with x = 0001, y = 0010, selector 0111 (R71). -/
theorem test_decode_bits :
    decodeWord 0b1011000100100011 = .ok (.ldIV0 0x123) ∧ decodeWord 0b1000000100100111 = .ok (.subn 1 2) := by decide

/-- E-1 to E-7, F-16, F-19, A-33, A-34. -/
theorem test_decode_illegal :
    [0x0000, 0x0123, 0x00E1, 0x00FE, 0xE09F, 0xF000, 0xF0FF, 0x5121, 0x9121, 0x8128, 0x812F].all
      (fun w => decodeWord w == .error (.illegalInstruction w)) = true := by decide

/-- Big-endian, two bytes, the rest untouched (R57, R70). -/
theorem test_decode_bytes :
    decode [0x12, 0x08, 0xFF] = .ok (.jp 0x208, [0xFF]) ∧ decode [0x12] = .error .truncated ∧
    decodeTableWord 16 0x1208 = some (.jp 0x208) ∧ decodeTableWord 16 0x0000 = none := by decide

/-- No two rows of the opcode table share a word (R82). -/
theorem test_table_rows_disjoint :
    opcodeTable.Pairwise (fun r q => r.pattern &&& q.mask ≠ q.pattern &&& r.mask) := by decide

theorem test_samples_round_trip :
    (Instr.samples.map fun i => decodeWord (encode i)) = Instr.samples.map Except.ok := by decide

/-- The listings of P1, P2 and P3 (R87). -/
theorem test_assembly :
    (decodeWord 0x6AFF).toOption.map assembly = some "LD VA, 0xFF" ∧
    (decodeWord 0x220A).toOption.map assembly = some "CALL 0x20A" ∧
    (decodeWord 0xF265).toOption.map assembly = some "LD V2, [I]" ∧
    (decodeWord 0xD125).toOption.map assembly = some "DRW V1, V2, 5" := by decide

/-! ### Control transfer (L2.1) -/

/-- F-1 -/
theorem test_jp : runs 0x1208 id (pc 0x208) = true := by decide
/-- F-2 -/
theorem test_jp_last_byte : runs 0x1FFF id (pc 0xFFF) = true := by decide
/-- F-6 -/
theorem test_call_last_slot : runs 0x2300 (fun s => { s with sp := 15 })
    (fun s => { s with pc := 0x300, sp := 16, stack := s.stack.set 15 0x202 }) = true := by decide
/-- F-7 -/
theorem test_call_overflow : faults 0x2300 (fun s => { s with sp := 16 }) .stackOverflow none = true := by decide
/-- F-3 -/
theorem test_ret : runs 0x00EE (fun s => { s with sp := 1, stack := s.stack.set 0 0x204 })
    (fun s => { s with pc := 0x204, sp := 0 }) = true := by decide
/-- F-4 -/
theorem test_ret_underflow : faults 0x00EE id .stackUnderflow none = true := by decide
/-- F-9 -/
theorem test_seImm : runs 0x3310 (v 3 0x10) (pc 0x204) = true := by decide
/-- F-10 -/
theorem test_seImm_not : runs 0x3311 (v 3 0x10) (pc 0x202) = true := by decide
/-- F-11 -/
theorem test_sneImm_not : runs 0x4310 (v 3 0x10) (pc 0x202) = true := by decide
/-- F-12 -/
theorem test_sneImm : runs 0x4311 (v 3 0x10) (pc 0x204) = true := by decide
/-- F-14 -/
theorem test_seReg_not : runs 0x5120 (v 1 7 ∘ v 2 8) (pc 0x202) = true := by decide
/-- F-15 -/
theorem test_seReg_same : runs 0x5110 (v 1 3) (pc 0x204) = true := by decide
/-- F-17 -/
theorem test_sneReg : runs 0x9120 (v 1 7 ∘ v 2 8) (pc 0x204) = true := by decide
/-- F-18 -/
theorem test_sneReg_not : runs 0x9120 (v 1 7 ∘ v 2 7) (pc 0x202) = true := by decide

/-! ### Register arithmetic and logic (L2.2) -/

/-- A-1 -/
theorem test_ldImm : runs 0x6A2F id (pc 0x202 ∘ v 0xA 0x2F) = true := by decide
/-- A-3 -/
theorem test_addImm_no_carry : runs 0x7501 (v 5 0xFF ∘ v 0xF 0x33) (pc 0x202 ∘ v 5 0) = true := by decide
/-- A-4 -/
theorem test_addImm_VF : runs 0x7F01 (v 0xF 0xFF) (pc 0x202 ∘ v 0xF 0) = true := by decide
/-- A-5 -/
theorem test_ldReg : runs 0x8120 (v 2 0x44) (pc 0x202 ∘ v 1 0x44) = true := by decide
/-- A-6 -/
theorem test_or : runs 0x8121 (v 1 0x0F ∘ v 2 0xF0 ∘ v 0xF 7) (pc 0x202 ∘ v 1 0xFF) = true := by decide
/-- A-7 -/
theorem test_and : runs 0x8122 (v 1 0x3C ∘ v 2 0x0F ∘ v 0xF 7) (pc 0x202 ∘ v 1 0x0C) = true := by decide
/-- A-8 -/
theorem test_xor : runs 0x8123 (v 1 0x3C ∘ v 2 0x0F ∘ v 0xF 7) (pc 0x202 ∘ v 1 0x33) = true := by decide
/-- A-11 -/
theorem test_addReg_clears_carry : runs 0x8124 (v 1 1 ∘ v 2 1 ∘ v 0xF 1) (pc 0x202 ∘ v 1 2 ∘ v 0xF 0) = true := by decide
/-- A-14 -/
theorem test_addReg_into_VF : runs 0x8F14 (v 0xF 0xFF ∘ v 1 2) (pc 0x202 ∘ v 0xF 1) = true := by decide
/-- A-16 -/
theorem test_sub_borrow : runs 0x8125 (v 1 5 ∘ v 2 7) (pc 0x202 ∘ v 1 0xFE ∘ v 0xF 1) = true := by decide
/-- A-18 -/
theorem test_sub_equal : runs 0x8125 (v 1 9 ∘ v 2 9 ∘ v 0xF 1) (pc 0x202 ∘ v 1 0 ∘ v 0xF 0) = true := by decide
/-- A-23 -/
theorem test_shr_VF : runs 0x8F06 (v 0xF 3) (pc 0x202 ∘ v 0xF 1) = true := by decide
/-- A-24 -/
theorem test_shr_ignores_VY : runs 0x8456 (v 4 2 ∘ v 5 0xFF) (pc 0x202 ∘ v 4 1) = true := by decide
/-- A-25 -/
theorem test_subn : runs 0x8127 (v 1 5 ∘ v 2 7 ∘ v 0xF 1) (pc 0x202 ∘ v 1 2 ∘ v 0xF 0) = true := by decide
/-- A-28 -/
theorem test_subn_into_VF : runs 0x8F17 (v 0xF 5 ∘ v 1 3) (pc 0x202 ∘ v 0xF 1) = true := by decide
/-- A-29 -/
theorem test_shl_raw_flag : runs 0x840E (v 4 0x81) (pc 0x202 ∘ v 4 2 ∘ v 0xF 0x80) = true := by decide
/-- A-30 -/
theorem test_shl_clear : runs 0x840E (v 4 0x7F ∘ v 0xF 1) (pc 0x202 ∘ v 4 0xFE ∘ v 0xF 0) = true := by decide
/-- A-35, for the draw 0xA7. -/
theorem test_rnd_mask : (rndWith 0xA7 3 0x0F State.reset).reg 3 = 0x07 := by decide
/-- The alternative readings of A-16 to A-18 and A-29 (R6). -/
theorem test_alternative_readings :
    differenceFlag .noBorrow 5 7 = 0 ∧ differenceFlag .noBorrow 7 5 = 1 ∧ differenceFlag .noBorrow 9 9 = 1 ∧
    shiftLeftFlag .normalised 0x81 = 1 := by decide

/-! ### Index, loads and stores (L2.3) -/

/-- M-1 -/
theorem test_ldI : runs 0xA2F0 id (fun s => { s with pc := 0x202, i := 0x2F0 }) = true := by decide
/-- M-3 -/
theorem test_ldIV0 : runs 0xBFFF (v 0 0xFF) (fun s => { s with pc := 0x202, i := 0x10FE }) = true := by decide
/-- M-6 -/
theorem test_addIVx : runs 0xF21E (v 2 0xFF ∘ data 0xFF00 []) (fun s => { s with pc := 0x202, i := 0xFFFF }) = true := by
  decide
/-- M-7 -/
theorem test_addIVx_overflow : faults 0xF21E (v 2 1 ∘ data 0xFFFF []) .outOfBounds (some 0x10000) = true := by decide
/-- M-9 -/
theorem test_ldFVx : runs 0xF029 (v 0 0xF) (fun s => { s with pc := 0x202, i := 0x04B }) = true := by decide
/-- M-10 -/
theorem test_ldFVx_no_digit : faults 0xF029 (v 0 0x10) .outOfBounds (some 0x10) = true := by decide
/-- M-15 -/
theorem test_ldBVx_top : runs 0xF033 (v 0 0x7B ∘ data 0xFFD [])
    (fun s => { s with pc := 0x202, mem := s.mem ++ [(0xFFD, 1), (0xFFE, 2), (0xFFF, 3)] }) = true := by decide
/-- M-16 -/
theorem test_ldBVx_beyond : faults 0xF033 (v 0 0x7B ∘ data 0xFFE []) .outOfBounds (some 0x1000) = true := by decide
/-- M-17 -/
theorem test_ldMIVx : runs 0xF155 (v 0 1 ∘ v 1 2 ∘ data 0x300 [])
    (fun s => { s with pc := 0x202, mem := s.mem ++ [(0x300, 1), (0x301, 2)] }) = true := by decide
/-- M-19 -/
theorem test_ldMIVx_beyond : faults 0xFF55 (data 0xFF1 []) .outOfBounds (some 0x1000) = true := by decide
/-- M-21 -/
theorem test_ldVxMI : runs 0xF265 (data 0x300 [2, 3, 4]) (pc 0x202 ∘ v 0 2 ∘ v 1 3 ∘ v 2 4) = true := by decide
/-- M-24 -/
theorem test_ldVxMI_beyond : faults 0xF065 (data 0x10FE []) .outOfBounds (some 0x10FE) = true := by decide

/-! ### Framebuffer (L2.4) -/

/-- D-11, L1-2 -/
theorem test_cls : nextIs ((({ State.reset with fb := cells [(3, 4), (63, 31)] }).withFetchWord 16 0x00E0) |> step)
    (fun t => decide (t.fb = cells []) && t.dirty && t.pc == 0x202) = true := by decide
/-- D-3 -/
theorem test_drw_per_sprite_collision :
    nextIs (step ((data 0x300 [0xC0] { State.reset with fb := cells [(0, 0)] }).withFetchWord 16 0xD011))
      (fun t => decide (t.fb = cells [(1, 0)]) && t.reg VF == 1 && t.dirty) = true := by decide
/-- D-6 -/
theorem test_drw_wraps_and_is_leftmost_first :
    nextIs (step (((v 0 0x41 ∘ v 1 0x21 ∘ data 0x300 [0x81]) State.reset).withFetchWord 16 0xD011))
      (fun t => decide (t.fb = cells [(1, 1), (8, 1)]) && t.reg VF == 0) = true := by decide
/-- D-8 -/
theorem test_drw_beyond : faults 0xD013 (data 0xFFE []) .outOfBounds (some 0x1000) = true := by decide
/-- D-3 under the per-bit rule. -/
theorem test_drw_per_bit : (drawRows .perBit 0 0 [0xC0] (cells [(0, 0)], false)).2 = false := by decide

/-! ### Keys and timers (L2.5) -/

/-- K-1 -/
theorem test_skp : runs 0xE59E (v 5 7 ∘ pressed [7]) (pc 0x204) = true := by decide
/-- K-5 -/
theorem test_skp_no_key_index : faults 0xE59E (v 5 0x10) .outOfBounds (some 0x10) = true := by decide
/-- K-3 -/
theorem test_sknp : runs 0xE5A1 (v 5 7) (pc 0x204) = true := by decide
/-- K-6 -/
theorem test_sknp_no_key_index : faults 0xE5A1 (v 5 0xFF) .outOfBounds (some 0xFF) = true := by decide
/-- K-7 -/
theorem test_ldVxK_waits : runs 0xF30A id (fun s => { s with pc := 0x200, wait := true }) = true := by decide
/-- K-8 -/
theorem test_ldVxK_least : runs 0xF30A (pressed [9, 3] ∘ fun s => { s with wait := true })
    (fun s => v 3 3 { s with pc := 0x202, wait := false }) = true := by decide
/-- K-10 -/
theorem test_ldVxDt : runs 0xF307 (fun s => { s with dt := 0x3C }) (pc 0x202 ∘ v 3 0x3C) = true := by decide
/-- K-11 -/
theorem test_ldDtVx : runs 0xF315 (v 3 0x3C) (fun s => { s with pc := 0x202, dt := 0x3C }) = true := by decide
/-- K-12 -/
theorem test_ldStVx : runs 0xF318 (v 3 2) (fun s => { s with pc := 0x202, st := 2 }) = true := by decide

/-- H-2 -/
theorem test_tick_to_zero : ({ State.reset with dt := 1, st := 1 }.tick.dt, { State.reset with dt := 1, st := 1 }.tick.st) =
    (0, 0) := by decide
/-- H-3 -/
theorem test_tick_stays_zero : (State.reset.tick.dt, State.reset.tick.st) = (0, 0) := by decide
/-- H-4 -/
theorem test_setKeys_keeps_wait :
    let t := { State.reset with wait := true }.setKeys (Vector.ofFn fun k => decide (k = 4))
    t.key 4 = true ∧ t.key 3 = false ∧ t.wait = true := by decide
/-- H-5, H-6 -/
theorem test_consumeFrame :
    { State.reset with dirty := true }.consumeFrame.2.dirty = false ∧ State.reset.consumeFrame.1 = none := by decide

/-! ### Fetch at the edges, and reset (L2.7, L2.8) -/

/-- X-1 -/
theorem test_fetch_last_word :
    nextIs (step { State.reset with pc := 0xFFE, mem := [(0xFFE, 0x12)] }) (fun t => t.pc == 0x200) = true := by decide
/-- X-2 -/
theorem test_fetch_last_byte :
    nextIs (step { State.reset with pc := 0xFFF }) (fun t => t.fault == some ⟨.outOfBounds, 0xFFF, none, some 0x1000⟩ &&
      t.pc == 0xFFF) = true := by decide
/-- X-4 -/
theorem test_fetch_beyond :
    nextIs (step { State.reset with pc := 0x1002 }) (fun t => t.fault == some ⟨.outOfBounds, 0x1002, none, some 0x1002⟩) =
      true := by decide
/-- X-5 -/
theorem test_fetch_odd :
    nextIs (step { State.reset with pc := 0x201, mem := [(0x201, 0x61), (0x202, 0x23)] }) (fun t => t.reg 1 == 0x23 &&
      t.pc == 0x203) = true := by decide
/-- R-3, P9 -/
theorem test_empty_program :
    nextIs (step State.reset) (sameButScreen { State.reset with fault := some ⟨.illegalInstruction, 0x200, some 0, none⟩ }) =
      true := by decide
/-- L1-1: a loaded program and the first and the last font byte. -/
theorem test_reset_loads :
    let s := State.resetWith [0x12, 0x00]
    s.mem = [(0x200, 0x12)] ∧ s.mem.byte 0x000 = 0xF0 ∧ s.mem.byte 0x04F = 0x80 ∧ s.mem.byte 0x050 = 0 := by decide
/-- R250, R253: the font has the 80 bytes of FONT_SIZE. -/
theorem test_font_size : params.font.length = fontSize := by decide

/-! ### Witnesses: the hypotheses of the statements are met, at the boundaries of their clauses -/

/-- The state after reset with SP changed. -/
def withSp (n : Fin 17) : State := { State.reset with sp := n }

/-- The state after reset with V0 and I changed. -/
def withV0I (b : Byte) (i : Word) : State := { v 0 b State.reset with i := i }

/-- A state that has recorded an error. -/
def stopped : State := { State.reset with fault := some ⟨.stackUnderflow, 0x200, some 0x00EE, none⟩ }

/-- DecodeOfEncode, EncodeOfDecode -/
theorem witness_encoding : (Instr.drw 0xF 0xF 15).wf = true ∧ decodeWord 0xDFFF = .ok (.drw 0xF 0xF 15) := by decide

/-- DecodeFollowsTable: a word of a row, and a word of none. -/
theorem witness_table : (Instr.drw 0xF 0xF 15).row.matchesWord 0xDFFF = true ∧ Instr.row (.drw 0xF 0xF 15) ∈ opcodeTable ∧
    (∀ r ∈ opcodeTable, r.matchesWord 0x8008 = false) := by decide

/-- IllegalWordsAreTheFamilies: a word at the edge of each family. -/
theorem witness_illegal : [0x0FFF, 0x5FFF, 0x9001, 0x8FFF, 0xE09D, 0xF066].all
    (fun w => decodeWord w == .error (.illegalInstruction w)) = true := by decide

/-- StepFetchesDecodesExecutes: its five clauses. -/
theorem witness_step :
    stopped.fault = some ⟨.stackUnderflow, 0x200, some 0x00EE, none⟩ ∧ State.reset.fault = none ∧
    0xFFF < (0x1000 : Word).toNat ∧ (0xFFF : Word).toNat = 0xFFF ∧
    (let s := { State.reset with pc := 0xFFE, mem := [(0xFFE, 0x12)] }
     s.pc.toNat ≤ 0xFFE ∧ (0x1200 : Word).toNat = 256 * (s.mem.byte 0xFFE).toNat + (s.mem.byte 0xFFF).toNat ∧
     decodeWord 0x1200 = .ok (.jp 0x200)) ∧
    (0x0000 : Word).toNat = 256 * (State.reset.mem.byte 0x200).toNat + (State.reset.mem.byte 0x201).toNat ∧
    decodeWord 0x0000 = .error (.illegalInstruction 0x0000) := by decide

/-- StepAdvancesOrFlagsPrecisely: CORE running, with a word to fetch and with none. -/
theorem witness_advance : State.reset.Running ∧ State.reset.mem.fetch 0x200 = .ok 0x0000 ∧
    State.reset.mem.fetch 0xFFF = .error 0x1000 := ⟨rfl, by decide, by decide⟩

/-- StoppedUntilReset, with the longest program that fits. -/
theorem witness_stopped : (∃ r, stopped.fault = some r) ∧ (List.replicate 3584 (0 : Byte)).length ≤ 3584 :=
  ⟨⟨_, rfl⟩, by rw [List.length_replicate]⟩

/-- LongProgramIsRefused, with the shortest program that does not fit; and a byte of a program that does. -/
theorem witness_long_program : 3584 < (List.replicate 3585 (0 : Byte)).length ∧
    (0 < [(0x12 : Byte)].length ∧ [(0x12 : Byte)].length ≤ 3584) :=
  ⟨by rw [List.length_replicate]; omega, by decide, by decide⟩

/-- Every `RowDecodes` clause: each row's words, one of them with every operand bit set. -/
theorem witness_rows : opcodeTable.all (fun r => r.matchesWord (r.pattern ||| ~~~r.mask)) = true := by decide

/-- JumpSetsProgramCounter: the last byte of memory. -/
theorem witness_jump : (0xFFF : Addr) = 0xFFF ∧ State.reset.fault = none := by decide

/-- CallPushesReturnAddress, ReturnPopsStack, ReturnResumesAfterCall: SP at 0, 1, 15 and 16. -/
theorem witness_stack : (withSp 0).sp.val = 0 ∧ (withSp 1).sp.val = (0 : Fin 16).val + 1 ∧ (withSp 15).sp.val < 16 ∧
    (withSp 16).sp.val = (15 : Fin 16).val + 1 ∧ (withSp 16).sp.val = 16 := by decide

/-- ReturnResumesAfterCall: a slot below SP. -/
theorem witness_slot : (14 : Fin 16).val < (withSp 15).sp.val := by decide

/-- The skips: registers that are equal and that are not. -/
theorem witness_skips : (withV0I 7 0).reg 0 = 7 ∧ (withV0I 7 0).reg 0 ≠ 8 ∧ (withV0I 7 0).reg 1 = (withV0I 7 0).reg 2 ∧
    (withV0I 7 0).reg 0 ≠ (withV0I 7 0).reg 1 := by decide

/-- SkipsOnKey, FontLookupPointsAtGlyph: VX at 0xF and at 0x10, the key pressed and not. -/
theorem witness_digit : ((withV0I 0x0F 0).reg 0).toNat = (15 : Fin 16).val ∧ 0xF < ((withV0I 0x10 0).reg 0).toNat ∧
    (pressed [15] (withV0I 0x0F 0)).key 15 = true ∧ (withV0I 0x0F 0).key 15 = false := by decide

/-- WritesResultAndFlag: a result register that is not VF, and one that is. -/
theorem witness_result_register : (0xE : Reg) ≠ VF ∧ (0xF : Reg) = VF := by decide

/-- IndexAddChecksOverflow: the sums 0xFFFF and 0x10000. -/
theorem witness_index_sum : (withV0I 1 0xFFFE).i.toNat + ((withV0I 1 0xFFFE).reg 0).toNat ≤ 0xFFFF ∧
    0xFFFF < (withV0I 1 0xFFFF).i.toNat + ((withV0I 1 0xFFFF).reg 0).toNat := by decide

/-- BcdStoresDigits: the digits end at 0xFFF, or one byte beyond. -/
theorem witness_bcd : (withV0I 0 0xFFD).effAddr 2 ≤ 0xFFF ∧ 0xFFF < (withV0I 0 0xFFE).effAddr 2 := by decide

/-- DumpStoresRegisters, LoadFillsRegisters, LoadRestoresDump: the registers end at 0xFFF, or one byte beyond. -/
theorem witness_dump : (withV0I 0 0xFF0).effAddr (0xF : Reg).val ≤ 0xFFF ∧ 0xFFF < (withV0I 0 0xFF1).effAddr (0xF : Reg).val ∧
    (0 : Reg) ≤ 0xF ∧ ¬(1 : Reg) ≤ 0 := by decide

/-- DumpIsSeenByNextStep: V0 and V1 hold the word 1200. -/
theorem witness_dump_code : (withV0I 0x12 0x200).Running ∧ 1 ≤ (1 : Reg).val ∧ (withV0I 0x12 0x200).i = (withV0I 0x12 0x200).pc ∧
    (withV0I 0x12 0x200).effAddr (1 : Reg).val ≤ 0xFFF ∧
    decodeWord (wordOfBytes ((withV0I 0x12 0x200).reg 0) ((withV0I 0x12 0x200).reg 1)) = .ok (.jp 0x200) :=
  ⟨rfl, by decide, by decide, by decide, by decide⟩

/-- DrawXorsSprite, DrawOutOfRangeRaises, DrawTwiceRestoresScreen: no rows with I beyond memory, and 15 rows that end at
0xFFF or one byte beyond, at a place VF does not name. -/
theorem witness_draw : (0 ≤ 15 ∧ (0 = 0 ∨ (withV0I 0 0xFFFF).effAddr (0 - 1) ≤ 0xFFF)) ∧
    (15 ≤ 15 ∧ (15 = 0 ∨ (withV0I 0 0xFF1).effAddr (15 - 1) ≤ 0xFFF)) ∧
    (0 < 15 ∧ 15 ≤ 15 ∧ 0xFFF < (withV0I 0 0xFF2).effAddr (15 - 1)) ∧ (0 : Reg) ≠ VF ∧ (1 : Reg) ≠ VF := by decide

/-- DrawSetsCollision: a draw that turns a cell off, and one that turns none off. -/
theorem witness_collision :
    nextIs (exec (.drw 0 0 1) (data 0x300 [0x80] { State.reset with fb := cells [(0, 0)] }))
      (fun t => (cells [(0, 0)]).cell 0 0 && !t.fb.cell 0 0 && t.reg VF == 1) = true ∧
    nextIs (exec (.drw 0 0 1) (data 0x300 [0x80] { State.reset with fb := cells [(1, 0)] }))
      (fun t => decide (t.fb = cells [(0, 0), (1, 0)]) && t.reg VF == 0) = true := by decide

/-- KeyWaitLoadsLeastKey: only key F pressed, and no key. -/
theorem witness_key_wait : (pressed [15] State.reset).key 15 = true ∧
    (∀ j : Fin 16, j < 15 → (pressed [15] State.reset).key j = false) ∧ ∀ k, State.reset.key k = false := by decide

/-- KeyWaitRepeats: F30A at PC. -/
theorem witness_key_wait_word : (State.reset.withFetchWord 16 0xF30A).Running ∧
    (State.reset.withFetchWord 16 0xF30A).mem.fetch (State.reset.withFetchWord 16 0xF30A).pc.toNat =
      .ok (encode (.ldVxK 3)) ∧ ∀ k, (State.reset.withFetchWord 16 0xF30A).key k = false :=
  ⟨rfl, by decide, by decide⟩

/-- TickDecrementsTimers, TimersKeysWaitWriters, StackWriters, MemoryAndScreenWriters, RegisterWriters: an instruction that answers a next state
and is none of the writers. -/
theorem witness_writers : (∃ t, exec (.jp 0x200) { State.reset with dirty := true } = .next t) ∧
    (∀ x, Instr.jp 0x200 ≠ .ldDtVx x) ∧ (∀ x, Instr.jp 0x200 ≠ .ldStVx x) ∧ (∀ x, Instr.jp 0x200 ≠ .ldVxK x) ∧
    (∀ nnn, Instr.jp 0x200 ≠ .call nnn) ∧ Instr.jp 0x200 ≠ .ret ∧ (∀ x, Instr.jp 0x200 ≠ .ldBVx x) ∧
    (∀ x, Instr.jp 0x200 ≠ .ldMIVx x) ∧ Instr.jp 0x200 ≠ .cls ∧ (∀ x y n, Instr.jp 0x200 ≠ .drw x y n) ∧
    (Instr.jp 0x200).writesIndex = false := ⟨⟨_, rfl⟩, by simp [Instr.writesIndex]⟩

/-- OnlyTransfersMoveProgramCounter, ListedInstructionsRaiseNothing -/
theorem witness_straight_line : ∃ t, exec (.ldImm 0 1) State.reset = .next t ∧ State.reset.Running ∧ t.Running ∧
    (Instr.ldImm 0 1).transfersControl = false ∧ (Instr.ldImm 0 1).errorFree = true := ⟨_, rfl, rfl, rfl, rfl, rfl⟩

/-- TickDecrementsTimers, FrameIsConsumedOnce: timers at 1 and 0, DIRTY set and clear. -/
theorem witness_host : 0 < ({ State.reset with dt := 1 }.dt).toNat ∧ ¬0 < State.reset.dt.toNat ∧
    { State.reset with dirty := true }.dirty = true ∧ State.reset.dirty = false := by decide

/-- ResetLoadsProgram: the last address of each range, with a program of one byte. -/
theorem witness_reset_ranges : 0x04F < 0x050 ∧ (0x050 ≤ 0x1FF ∧ 0x1FF < 0x200) ∧
    (0x050 ≤ 0x201 ∧ 0x200 + [(0x12 : Byte)].length ≤ 0x201) := by decide

/-- StepKeepsInvariant, TransactionsKeepInvariant: a state at the bounds of the invariant, and one that recorded an error. -/
theorem witness_invariant : { State.reset with pc := 0x1002, stack := Vector.replicate 16 0x1000, mem := [(0xFFF, 1)] }.Inv ∧
    stopped.Inv :=
  ⟨⟨by decide, by decide, by decide, fun r h => by cases h⟩,
    ⟨by decide, by decide, by decide, fun r h => by cases h; exact ⟨rfl, rfl, by decide⟩⟩⟩

/-- StepKeepsInvariant, TransactionsKeepInvariant: a step and a transaction that is no step answer a next state. -/
theorem witness_transitions : (∃ t, step stopped = .next t) ∧ (∃ t, transact .tick stopped = .next t) ∧
    Transaction.tick ≠ .step := ⟨⟨_, rfl⟩, ⟨_, rfl⟩, by decide⟩

end Sys2Proof.Tests
end

section
/-! PROOFS. Rows that fix the first nibble, and instructions whose whole effect is the write of one register. -/

namespace Sys2Proof.Machine

/-- The first nibble of a word of a row with the mask 0xF000 (R71, R82). -/
theorem group_of_and_F000 {op pattern : Word} {g : Nat} (h : op &&& 0xF000 = pattern)
    (hp : pattern.toNat = 4096 * g) : bits 15 12 op = g := by
  have hmask : 4096 * bits 15 12 op = 4096 * g :=
    calc 4096 * bits 15 12 op = (op &&& 0xF000#16).toNat := (and_F000_toNat op).symm
      _ = pattern.toNat := congrArg BitVec.toNat h
      _ = 4096 * g := hp
  omega

/-- A register write leaves every other register as it is. -/
theorem setReg_regsUnchanged (s : State) (x : Reg) (b : Byte) : RegsUnchanged [x] s (s.setReg x b) := by
  intro r hr
  rw [State.setReg_reg, if_neg (List.ne_of_not_mem_cons hr)]

/-- A register write leaves every other piece of state as it is. -/
theorem setReg_unchanged (s : State) (x : Reg) (b : Byte) : Unchanged [.regs] s (s.setReg x b) := by
  intro p hp
  cases p
  case regs => exact absurd (List.mem_singleton_self _) hp
  all_goals simp [Part.same]

/-- An instruction whose meaning is one `setReg` writes that register and nothing else. -/
theorem writesReg_of_setReg {x : Reg} {b : Byte} {value : Nat} {i : Instr} {s : State}
    (h : exec i s = .next (s.setReg x b)) (hb : b.toNat = value) : WritesReg x value i s :=
  ⟨s.setReg x b, h, by rw [State.setReg_reg, if_pos rfl, hb], setReg_regsUnchanged s x b, setReg_unchanged s x b⟩

@[simp] theorem trunc8_toNat (n : Nat) : (trunc8 n).toNat = n % 256 := BitVec.toNat_ofNat n 8

theorem exec_ldImm (x : Reg) (nn : Byte) (s : State) : exec (.ldImm x nn) s = .next (s.setReg x nn) := rfl

theorem exec_addImm (x : Reg) (nn : Byte) (s : State) :
    exec (.addImm x nn) s = .next (s.setReg x (trunc8 ((s.reg x).toNat + nn.toNat))) := rfl

/-- 6XNN decodes by its first nibble alone (R74, R83). -/
theorem rowDecodes_ldImm : RowDecodes 0xF000 0x6000 (fun op => .ldImm (fieldX op) (fieldNN op)) := by
  intro op h
  have hgroup : bits 15 12 op = 0x6 := group_of_and_F000 h rfl
  simp only [decodeWord, hgroup]

/-- 7XNN decodes by its first nibble alone (R74, R83). -/
theorem rowDecodes_addImm : RowDecodes 0xF000 0x7000 (fun op => .addImm (fieldX op) (fieldNN op)) := by
  intro op h
  have hgroup : bits 15 12 op = 0x7 := group_of_and_F000 h rfl
  simp only [decodeWord, hgroup]

/-- Settles O16: both meanings are one `setReg`, of `nn` (R120) and of the truncated sum (R121). -/
theorem constantLoadAndAdd : Obligations.ConstantLoadAndAdd :=
  ⟨rowDecodes_ldImm, rowDecodes_addImm, fun x nn s =>
    ⟨writesReg_of_setReg (exec_ldImm x nn s) rfl, writesReg_of_setReg (exec_addImm x nn s) (trunc8_toNat _)⟩⟩

end Sys2Proof.Machine
end

section
/-! PROOFS. The row that fixes the whole word, and the write of the whole framebuffer. -/

namespace Sys2Proof.Machine

/-- A write of the framebuffer leaves every piece of state but the cells and DIRTY as it is. -/
theorem setScreen_unchanged (s : State) (g : Framebuffer) : Unchanged [.fb, .dirty] s (s.setScreen g) := by
  intro p hp
  cases p
  case fb | dirty => simp at hp
  all_goals simp [Part.same]

theorem exec_cls (s : State) : exec .cls s = .next (s.setScreen Framebuffer.blank) := rfl

/-- 00E0 is the one word of its row (R74, R83). -/
theorem rowDecodes_cls : RowDecodes 0xFFFF 0x00E0 (fun _ => .cls) := by
  intro op h
  have hop : op = 0x00E0 := (and_FFFF op).symm.trans h
  rw [hop]
  rfl

/-- Settles O31: the clear is one `setScreen` of the blank framebuffer, whose cells are all 0 (R170). -/
theorem clearBlanksScreen : Obligations.ClearBlanksScreen :=
  ⟨rowDecodes_cls, fun s =>
    ⟨s.setScreen Framebuffer.blank, exec_cls s, Framebuffer.cell_blank, State.setScreen_dirty s _,
      setScreen_unchanged s _⟩⟩

end Sys2Proof.Machine
end

section
/-! PROOFS. Rows that fix the first nibble and the low byte, and the moves between a register and a timer. -/

namespace Sys2Proof.Machine

/-- The first nibble and the low byte of a word of a row with the mask 0xF0FF (R71, R82). -/
theorem group_lowByte_of_and_F0FF {op pattern : Word} {g k : Nat} (h : op &&& 0xF0FF = pattern)
    (hp : pattern.toNat = 4096 * g + k) (hk : k < 256) : bits 15 12 op = g ∧ bits 7 0 op = k := by
  have hmask : 4096 * bits 15 12 op + bits 7 0 op = 4096 * g + k :=
    calc 4096 * bits 15 12 op + bits 7 0 op = (op &&& 0xF0FF#16).toNat := (and_F0FF_toNat op).symm
      _ = pattern.toNat := congrArg BitVec.toNat h
      _ = 4096 * g + k := hp
  have hlow : bits 7 0 op < 256 := bits_lt 7 0 op
  omega

/-- A row of group 0xF holds the words of one low byte, so it decodes as `decodeGroupF` answers on that byte (R83). -/
theorem rowDecodes_of_decodeGroupF {pattern : Word} {instr : Word → Instr} (k : Nat)
    (hp : pattern.toNat = 4096 * 0xF + k) (hk : k < 256)
    (hF : ∀ op, bits 7 0 op = k → decodeGroupF op = .ok (instr op)) : RowDecodes 0xF0FF pattern instr := by
  intro op h
  obtain ⟨hgroup, hlow⟩ := group_lowByte_of_and_F0FF h hp hk
  simp only [decodeWord, hgroup, hF op hlow]

theorem rowDecodes_ldVxDt : RowDecodes 0xF0FF 0xF007 (fun op => .ldVxDt (fieldX op)) :=
  rowDecodes_of_decodeGroupF 0x07 rfl (by decide) fun op hlow => by simp only [decodeGroupF, hlow]

theorem rowDecodes_ldDtVx : RowDecodes 0xF0FF 0xF015 (fun op => .ldDtVx (fieldX op)) :=
  rowDecodes_of_decodeGroupF 0x15 rfl (by decide) fun op hlow => by simp only [decodeGroupF, hlow]

theorem rowDecodes_ldStVx : RowDecodes 0xF0FF 0xF018 (fun op => .ldStVx (fieldX op)) :=
  rowDecodes_of_decodeGroupF 0x18 rfl (by decide) fun op hlow => by simp only [decodeGroupF, hlow]

/-- A write of the delay timer leaves every other piece of state as it is. -/
theorem setDt_unchanged (s : State) (b : Byte) : Unchanged [.dt] s (s.setDt b) := by
  intro p hp
  cases p
  case dt => exact absurd (List.mem_singleton_self _) hp
  all_goals simp [Part.same]

/-- A write of the sound timer leaves every other piece of state as it is. -/
theorem setSt_unchanged (s : State) (b : Byte) : Unchanged [.st] s (s.setSt b) := by
  intro p hp
  cases p
  case st => exact absurd (List.mem_singleton_self _) hp
  all_goals simp [Part.same]

theorem exec_ldVxDt (x : Reg) (s : State) : exec (.ldVxDt x) s = .next (s.setReg x s.dt) := rfl

theorem exec_ldDtVx (x : Reg) (s : State) : exec (.ldDtVx x) s = .next (s.setDt (s.reg x)) := rfl

theorem exec_ldStVx (x : Reg) (s : State) : exec (.ldStVx x) s = .next (s.setSt (s.reg x)) := rfl

/-- Settles O39: FX07 is one `setReg` of DT (R193), FX15 one `setDt` (R194) and FX18 one `setSt` (R195) of VX. -/
theorem timerMoves : Obligations.TimerMoves :=
  ⟨rowDecodes_ldVxDt, rowDecodes_ldDtVx, rowDecodes_ldStVx, fun x s =>
    ⟨writesReg_of_setReg (exec_ldVxDt x s) rfl,
      ⟨s.setDt (s.reg x), exec_ldDtVx x s, State.setDt_dt s _, setDt_unchanged s _⟩,
      ⟨s.setSt (s.reg x), exec_ldStVx x s, State.setSt_st s _, setSt_unchanged s _⟩⟩⟩

end Sys2Proof.Machine
end

section
/-! PROOFS. The host's transactions on the timers, the key latch and the frame, and which instructions write a timer. -/

namespace Sys2Proof.Machine

/-! ### The timers (R222) -/

/-- A timer after a tick: the subtraction never wraps, a timer at 0 is not decremented. -/
theorem tickTimer_toNat (b : Byte) : (tickTimer b).toNat = if 0 < b.toNat then b.toNat - 1 else 0 := by
  unfold tickTimer
  split
  case isTrue hpos => exact BitVec.toNat_sub_of_le (BitVec.le_def.mpr hpos)
  case isFalse hzero => omega

/-- A tick leaves every piece of state but the timers as it is. -/
theorem tick_unchanged (s : State) : Unchanged [.dt, .st] s s.tick := by
  intro p hp
  cases p
  case dt | st => simp at hp
  all_goals simp [Part.same]

/-- FX15 is the one instruction whose effect reaches DT. -/
theorem Effect.dt_eq {i : Instr} {s t : State} (h : Effect s i t) :
    t.dt = s.dt ∨ ∃ x, i = .ldDtVx x ∧ t.dt = s.reg x := by
  cases h
  case setsDelay x => exact .inr ⟨x, rfl, State.setDt_dt s _⟩
  all_goals exact .inl (by simp)

/-- FX18 is the one instruction whose effect reaches ST. -/
theorem Effect.st_eq {i : Instr} {s t : State} (h : Effect s i t) :
    t.st = s.st ∨ ∃ x, i = .ldStVx x ∧ t.st = s.reg x := by
  cases h
  case setsSound x => exact .inr ⟨x, rfl, State.setSt_st s _⟩
  all_goals exact .inl (by simp)

theorem transact_tick (s : State) : transact .tick s = .next s.tick := rfl

/-- Settles O46: a tick is `tickTimer` of both timers, and of an instruction's effects only those of FX15 and FX18 reach
a timer (R222). -/
theorem tickDecrementsTimers : Obligations.TickDecrementsTimers :=
  ⟨fun s => ⟨s.tick, transact_tick s, tickTimer_toNat s.dt, tickTimer_toNat s.st, tick_unchanged s⟩,
    fun _ _ _ h => ⟨(exec_effect h).dt_eq, (exec_effect h).st_eq⟩⟩

/-! ### The key latch (R221) -/

@[simp] theorem State.setKeys_key (s : State) (k : Vector Bool 16) (j : Fin 16) : (s.setKeys k).key j = k[j.val] := rfl

/-- A write of the latch leaves every other piece of state as it is. -/
theorem setKeys_unchanged (s : State) (k : Vector Bool 16) : Unchanged [.keys] s (s.setKeys k) := by
  intro p hp
  cases p
  case keys => exact absurd (List.mem_singleton_self _) hp
  all_goals simp [Part.same]

theorem transact_setKeys (k : Vector Bool 16) (s : State) : transact (.setKeys k) s = .next (s.setKeys k) := rfl

/-- Settles O47: the transaction is one `setKeys`, which replaces the latch as a whole (R221). -/
theorem setKeysOverwritesLatch : Obligations.SetKeysOverwritesLatch := fun k s =>
  ⟨s.setKeys k, transact_setKeys k s, State.setKeys_key s k, setKeys_unchanged s k⟩

/-! ### The frame (R224) -/

/-- A dirty framebuffer is answered, and DIRTY is cleared. -/
theorem State.consumeFrame_of_dirty {s : State} (h : s.dirty = true) :
    s.consumeFrame = (some s.fb, { s with dirty := false }) := if_pos h

/-- With DIRTY clear there is no frame to answer. -/
theorem State.consumeFrame_of_clean {s : State} (h : s.dirty = false) : s.consumeFrame = (none, s) :=
  if_neg (Bool.eq_false_iff.mp h)

/-- A write of DIRTY leaves every other piece of state as it is. -/
theorem setDirty_unchanged (s : State) (b : Bool) : Unchanged [.dirty] s { s with dirty := b } := by
  intro p hp
  cases p
  case dirty => exact absurd (List.mem_singleton_self _) hp
  all_goals simp [Part.same, State.reg, State.slot, State.key]

/-- Nothing has changed from a state to itself. -/
theorem unchanged_refl (s : State) : Unchanged [] s s := by
  intro p _
  cases p <;> simp [Part.same]

theorem transact_consumeFrame (s : State) : transact .consumeFrame s = .next s.consumeFrame.2 := rfl

/-- Settles O48: DIRTY decides what is answered, and the state after a dirty read is a clean one (R224). -/
theorem frameIsConsumedOnce : Obligations.FrameIsConsumedOnce := by
  refine fun s => ⟨fun hdirty => ?_, fun hclean => ?_, transact_consumeFrame s⟩
  · have hsecond : ({ s with dirty := false } : State).consumeFrame.1 = none :=
      congrArg Prod.fst (State.consumeFrame_of_clean rfl)
    rw [State.consumeFrame_of_dirty hdirty]
    exact ⟨rfl, rfl, setDirty_unchanged s false, hsecond⟩
  · rw [State.consumeFrame_of_clean hclean]
    exact ⟨rfl, unchanged_refl s⟩

end Sys2Proof.Machine
end

section
/-! PROOFS. The decoder row by row: each row of the opcode table decodes to its own instruction with the fields of the
word, so decoding undoes encoding, encoding undoes decoding, and a word no row matches is illegal. -/

namespace Sys2Proof.Machine

/-! ### Every row decodes to its instruction (R72, R82) -/

/-- The instruction of the same row whose operands are the fields of a word (R72). -/
def withFieldsOf (i : Instr) (op : Word) : Instr :=
  match i with
  | .cls => .cls
  | .ret => .ret
  | .jp _ => .jp (fieldNNN op)
  | .call _ => .call (fieldNNN op)
  | .seImm _ _ => .seImm (fieldX op) (fieldNN op)
  | .sneImm _ _ => .sneImm (fieldX op) (fieldNN op)
  | .seReg _ _ => .seReg (fieldX op) (fieldY op)
  | .ldImm _ _ => .ldImm (fieldX op) (fieldNN op)
  | .addImm _ _ => .addImm (fieldX op) (fieldNN op)
  | .ldReg _ _ => .ldReg (fieldX op) (fieldY op)
  | .orReg _ _ => .orReg (fieldX op) (fieldY op)
  | .andReg _ _ => .andReg (fieldX op) (fieldY op)
  | .xorReg _ _ => .xorReg (fieldX op) (fieldY op)
  | .addReg _ _ => .addReg (fieldX op) (fieldY op)
  | .sub _ _ => .sub (fieldX op) (fieldY op)
  | .shr _ _ => .shr (fieldX op) (fieldY op)
  | .subn _ _ => .subn (fieldX op) (fieldY op)
  | .shl _ _ => .shl (fieldX op) (fieldY op)
  | .sneReg _ _ => .sneReg (fieldX op) (fieldY op)
  | .ldI _ => .ldI (fieldNNN op)
  | .ldIV0 _ => .ldIV0 (fieldNNN op)
  | .rnd _ _ => .rnd (fieldX op) (fieldNN op)
  | .drw _ _ _ => .drw (fieldX op) (fieldY op) (fieldN op)
  | .skp _ => .skp (fieldX op)
  | .sknp _ => .sknp (fieldX op)
  | .ldVxDt _ => .ldVxDt (fieldX op)
  | .ldVxK _ => .ldVxK (fieldX op)
  | .ldDtVx _ => .ldDtVx (fieldX op)
  | .ldStVx _ => .ldStVx (fieldX op)
  | .addIVx _ => .addIVx (fieldX op)
  | .ldFVx _ => .ldFVx (fieldX op)
  | .ldBVx _ => .ldBVx (fieldX op)
  | .ldMIVx _ => .ldMIVx (fieldX op)
  | .ldVxMI _ => .ldVxMI (fieldX op)

/-- The first and the fourth nibble of a word of a row with the mask 0xF00F (R71, R82). -/
theorem group_fieldN_of_and_F00F {op pattern : Word} (h : op &&& 0xF00F = pattern) :
    bits 15 12 op = pattern.toNat / 4096 ∧ fieldN op = pattern.toNat % 4096 := by
  have hmask : 4096 * bits 15 12 op + fieldN op = pattern.toNat :=
    (and_F00F_toNat op).symm.trans (congrArg BitVec.toNat h)
  have hlow : fieldN op < 16 := bits_lt 3 0 op
  omega

/-- A row with the mask 0xF000 decodes as the decoder answers on its first nibble. -/
theorem rowDecodes_F000 {pattern : Word} {instr : Word → Instr} (hp : pattern.toNat % 4096 = 0)
    (hd : ∀ op, bits 15 12 op = pattern.toNat / 4096 → decodeWord op = .ok (instr op)) :
    RowDecodes 0xF000 pattern instr :=
  fun op h => hd op (group_of_and_F000 h (by omega))

/-- A row with the mask 0xF00F decodes as the decoder answers on its first and its fourth nibble. -/
theorem rowDecodes_F00F {pattern : Word} {instr : Word → Instr}
    (hd : ∀ op, bits 15 12 op = pattern.toNat / 4096 → fieldN op = pattern.toNat % 4096 →
      decodeWord op = .ok (instr op)) :
    RowDecodes 0xF00F pattern instr := fun op h =>
  have ⟨hgroup, hn⟩ := group_fieldN_of_and_F00F h
  hd op hgroup hn

/-- A row with the mask 0xF0FF decodes as the decoder answers on its first nibble and its low byte. -/
theorem rowDecodes_F0FF {pattern : Word} {instr : Word → Instr} (hp : pattern.toNat % 4096 < 256)
    (hd : ∀ op, bits 15 12 op = pattern.toNat / 4096 → bits 7 0 op = pattern.toNat % 4096 →
      decodeWord op = .ok (instr op)) :
    RowDecodes 0xF0FF pattern instr := fun op h =>
  have ⟨hgroup, hlow⟩ := group_lowByte_of_and_F0FF h (by omega) hp
  hd op hgroup hlow

theorem decodeWord_group8 {op : Word} (hgroup : bits 15 12 op = 0x8) : decodeWord op = decodeGroup8 op := by
  simp only [decodeWord, hgroup]

theorem decodeWord_groupE {op : Word} (hgroup : bits 15 12 op = 0xE) : decodeWord op = decodeGroupE op := by
  simp only [decodeWord, hgroup]

theorem decodeWord_groupF {op : Word} (hgroup : bits 15 12 op = 0xF) : decodeWord op = decodeGroupF op := by
  simp only [decodeWord, hgroup]

/-- Every row of the table decodes to its own instruction, with the fields of the word as operands (R82). -/
theorem rowDecodes_row (i : Instr) : RowDecodes i.row.mask i.row.pattern (withFieldsOf i) := by
  cases i <;> simp only [Instr.row]
  case cls | ret =>
    intro op h
    rw [(and_FFFF op).symm.trans h]
    rfl
  case jp | call | seImm | sneImm | ldImm | addImm | ldI | ldIV0 | rnd | drw =>
    exact rowDecodes_F000 rfl fun op hgroup => by rw [decodeWord, hgroup]; rfl
  case seReg | sneReg =>
    exact rowDecodes_F00F fun op hgroup hn => by rw [decodeWord, hgroup]; exact if_pos hn
  case ldReg | orReg | andReg | xorReg | addReg | sub | shr | subn | shl =>
    exact rowDecodes_F00F fun op hgroup hn =>
      (decodeWord_group8 hgroup).trans (by rw [decodeGroup8, hn]; rfl)
  case skp | sknp =>
    exact rowDecodes_F0FF (by decide) fun op hgroup hlow =>
      (decodeWord_groupE hgroup).trans (by rw [decodeGroupE, hlow]; rfl)
  all_goals
    exact rowDecodes_F0FF (by decide) fun op hgroup hlow =>
      (decodeWord_groupF hgroup).trans (by rw [decodeGroupF, hlow]; rfl)

/-! ### The fields of an encoded word, and the word from its fields (R71, R72) -/

@[simp] theorem fieldNNN_wordNNN {g : Nat} (hg : g < 16) (nnn : Addr) : fieldNNN (wordNNN g nnn) = nnn := by
  have hlt := nnn.isLt
  apply BitVec.eq_of_toNat_eq
  rw [fieldNNN_toNat, wordNNN_toNat g hg]
  omega

@[simp] theorem fieldX_wordXNN {g : Nat} (hg : g < 16) (x : Reg) (nn : Byte) : fieldX (wordXNN g x nn) = x := by
  have hlt := nn.isLt
  apply Fin.ext
  rw [fieldX_val, wordXNN_toNat g hg]
  omega

@[simp] theorem fieldNN_wordXNN {g : Nat} (hg : g < 16) (x : Reg) (nn : Byte) : fieldNN (wordXNN g x nn) = nn := by
  have hlt := nn.isLt
  apply BitVec.eq_of_toNat_eq
  rw [fieldNN_toNat, wordXNN_toNat g hg]
  omega

@[simp] theorem fieldX_wordXYN {g : Nat} (hg : g < 16) (x y : Reg) (n : Nat) : fieldX (wordXYN g x y n) = x := by
  apply Fin.ext
  rw [fieldX_val, wordXYN_toNat g hg]
  omega

@[simp] theorem fieldY_wordXYN {g : Nat} (hg : g < 16) (x y : Reg) (n : Nat) : fieldY (wordXYN g x y n) = y := by
  apply Fin.ext
  rw [fieldY_val, wordXYN_toNat g hg]
  omega

@[simp] theorem fieldN_wordXYN {g : Nat} (hg : g < 16) (x y : Reg) (n : Nat) : fieldN (wordXYN g x y n) = n % 16 := by
  rw [fieldN_eq, wordXYN_toNat g hg]
  omega

@[simp] theorem fieldX_wordXKK {g kk : Nat} (hg : g < 16) (hk : kk < 256) (x : Reg) : fieldX (wordXKK g x kk) = x := by
  apply Fin.ext
  rw [fieldX_val, wordXKK_toNat g hg x kk hk]
  omega

theorem wordNNN_fields {op : Word} {g : Nat} (hgroup : bits 15 12 op = g) : wordNNN g (fieldNNN op) = op := by
  have hlt := op.isLt
  rw [group_eq] at hgroup
  apply BitVec.eq_of_toNat_eq
  rw [wordNNN_toNat g (by omega), fieldNNN_toNat]
  omega

theorem wordXNN_fields {op : Word} {g : Nat} (hgroup : bits 15 12 op = g) :
    wordXNN g (fieldX op) (fieldNN op) = op := by
  have hlt := op.isLt
  rw [group_eq] at hgroup
  apply BitVec.eq_of_toNat_eq
  rw [wordXNN_toNat g (by omega), fieldX_val, fieldNN_toNat]
  omega

theorem wordXYN_fields {op : Word} {g n : Nat} (hgroup : bits 15 12 op = g) (hn : fieldN op = n) :
    wordXYN g (fieldX op) (fieldY op) n = op := by
  have hlt := op.isLt
  rw [group_eq] at hgroup
  rw [fieldN_eq] at hn
  apply BitVec.eq_of_toNat_eq
  rw [wordXYN_toNat g (by omega), fieldX_val, fieldY_val]
  omega

theorem wordXKK_fields {op : Word} {g kk : Nat} (hgroup : bits 15 12 op = g) (hlow : bits 7 0 op = kk) :
    wordXKK g (fieldX op) kk = op := by
  have hlt := op.isLt
  rw [group_eq] at hgroup
  rw [lowByte_eq] at hlow
  apply BitVec.eq_of_toNat_eq
  rw [wordXKK_toNat g (by omega) _ _ (by omega), fieldX_val]
  omega

/-! ### The round trips -/

/-- Every instruction's word lies in that instruction's row: the family `Laws.TableRow`, over all instructions. -/
theorem encode_matches_row (i : Instr) : encode i &&& i.row.mask = i.row.pattern := by
  have hrow : Laws.TableRow.Statement i := by
    cases i with
    | cls => exact Laws.TableRow.cls
    | ret => exact Laws.TableRow.ret
    | jp nnn => exact Laws.TableRow.jp nnn
    | call nnn => exact Laws.TableRow.call nnn
    | seImm x nn => exact Laws.TableRow.seImm x nn
    | sneImm x nn => exact Laws.TableRow.sneImm x nn
    | seReg x y => exact Laws.TableRow.seReg x y
    | ldImm x nn => exact Laws.TableRow.ldImm x nn
    | addImm x nn => exact Laws.TableRow.addImm x nn
    | ldReg x y => exact Laws.TableRow.ldReg x y
    | orReg x y => exact Laws.TableRow.orReg x y
    | andReg x y => exact Laws.TableRow.andReg x y
    | xorReg x y => exact Laws.TableRow.xorReg x y
    | addReg x y => exact Laws.TableRow.addReg x y
    | sub x y => exact Laws.TableRow.sub x y
    | shr x y => exact Laws.TableRow.shr x y
    | subn x y => exact Laws.TableRow.subn x y
    | shl x y => exact Laws.TableRow.shl x y
    | sneReg x y => exact Laws.TableRow.sneReg x y
    | ldI nnn => exact Laws.TableRow.ldI nnn
    | ldIV0 nnn => exact Laws.TableRow.ldIV0 nnn
    | rnd x nn => exact Laws.TableRow.rnd x nn
    | drw x y n => exact Laws.TableRow.drw x y n
    | skp x => exact Laws.TableRow.skp x
    | sknp x => exact Laws.TableRow.sknp x
    | ldVxDt x => exact Laws.TableRow.ldVxDt x
    | ldVxK x => exact Laws.TableRow.ldVxK x
    | ldDtVx x => exact Laws.TableRow.ldDtVx x
    | ldStVx x => exact Laws.TableRow.ldStVx x
    | addIVx x => exact Laws.TableRow.addIVx x
    | ldFVx x => exact Laws.TableRow.ldFVx x
    | ldBVx x => exact Laws.TableRow.ldBVx x
    | ldMIVx x => exact Laws.TableRow.ldMIVx x
    | ldVxMI x => exact Laws.TableRow.ldVxMI x
  exact eq_of_beq hrow

/-- The fields of an instruction's word are the operands encoded into it; a row count is one nibble (R72, R73). -/
theorem withFieldsOf_encode {i : Instr} (hwf : i.wf = true) : withFieldsOf i (encode i) = i := by
  cases i
  case drw x y n =>
    have hn : n % 16 = n := Nat.mod_eq_of_lt (Nat.lt_succ_of_le (of_decide_eq_true hwf))
    simp [withFieldsOf, encode, hn]
  all_goals simp [withFieldsOf, encode]

theorem decodeWord_encode {i : Instr} (hwf : i.wf = true) : decodeWord (encode i) = .ok i := by
  rw [rowDecodes_row i (encode i) (encode_matches_row i), withFieldsOf_encode hwf]

/-- The decoder reads a word from its two bytes and leaves the bytes after them (R57, R70). -/
theorem decode_wordBytes_append {op : Word} {i : Instr} (h : decodeWord op = .ok i) (rest : List Byte) :
    decode (wordBytes op ++ rest) = .ok (i, rest) := by
  simp only [wordBytes, List.cons_append, List.nil_append, decode, wordOfBytes_wordBytes, h]

/-- Settles O1: the word of `i` lies in the row of `i`, which decodes it with its fields, and those are the operands
of `i`. -/
theorem decodeOfEncode : Obligations.DecodeOfEncode := fun _ hwf =>
  ⟨decodeWord_encode hwf, decode_wordBytes_append (decodeWord_encode hwf)⟩

theorem encode_of_decodeGroup0 {op : Word} {i : Instr} (h : decodeGroup0 op = .ok i) :
    i.wf = true ∧ encode i = op := by
  unfold decodeGroup0 at h
  split at h
  case isTrue hop => cases h; exact ⟨rfl, hop.symm⟩
  case isFalse =>
    split at h
    case isTrue hop => cases h; exact ⟨rfl, hop.symm⟩
    case isFalse => cases h

theorem decodeXY0_inv {op : Word} {i j : Instr} (h : decodeXY0 op i = .ok j) : j = i ∧ fieldN op = 0 := by
  unfold decodeXY0 at h
  split at h
  case isTrue hn => cases h; exact ⟨rfl, hn⟩
  case isFalse => cases h

theorem encode_of_decodeGroup8 {op : Word} {i : Instr} (hgroup : bits 15 12 op = 0x8) (h : decodeGroup8 op = .ok i) :
    i.wf = true ∧ encode i = op := by
  simp only [decodeGroup8] at h
  split at h <;> cases h
  all_goals exact ⟨rfl, wordXYN_fields hgroup ‹_›⟩

theorem encode_of_decodeGroupE {op : Word} {i : Instr} (hgroup : bits 15 12 op = 0xE) (h : decodeGroupE op = .ok i) :
    i.wf = true ∧ encode i = op := by
  simp only [decodeGroupE] at h
  split at h <;> cases h
  all_goals exact ⟨rfl, wordXKK_fields hgroup ‹_›⟩

theorem encode_of_decodeGroupF {op : Word} {i : Instr} (hgroup : bits 15 12 op = 0xF) (h : decodeGroupF op = .ok i) :
    i.wf = true ∧ encode i = op := by
  simp only [decodeGroupF] at h
  split at h <;> cases h
  all_goals exact ⟨rfl, wordXKK_fields hgroup ‹_›⟩

/-- Settles O2: in each group the decoded operands are the fields that the format puts back in their places (R71). -/
theorem encodeOfDecode : Obligations.EncodeOfDecode := by
  intro op i h
  unfold decodeWord at h
  split at h
  case h_1 => exact encode_of_decodeGroup0 h
  case h_2 | h_3 | h_11 | h_12 => cases h; exact ⟨rfl, wordNNN_fields ‹_›⟩
  case h_4 | h_5 | h_7 | h_8 | h_13 => cases h; exact ⟨rfl, wordXNN_fields ‹_›⟩
  case h_6 | h_10 =>
    obtain ⟨rfl, hn⟩ := decodeXY0_inv h
    exact ⟨rfl, wordXYN_fields ‹_› hn⟩
  case h_9 hgroup => exact encode_of_decodeGroup8 hgroup h
  case h_14 =>
    cases h
    have hn : fieldN op < 16 := bits_lt 3 0 op
    exact ⟨decide_eq_true (by omega), wordXYN_fields ‹_› rfl⟩
  case h_15 hgroup => exact encode_of_decodeGroupE hgroup h
  case h_16 hgroup => exact encode_of_decodeGroupF hgroup h
  case h_17 => cases h

/-! ### The opcode table (R82) -/

/-- The row of an instruction is that of the sample with the fields of the word 0. -/
theorem row_mem_opcodeTable (i : Instr) : i.row ∈ opcodeTable := by
  have hsample : withFieldsOf i 0 ∈ Instr.samples := by
    cases i <;> simp only [withFieldsOf] <;> decide
  have hrow : (withFieldsOf i 0).row = i.row := by
    cases i <;> rfl
  exact List.mem_map.mpr ⟨withFieldsOf i 0, hsample, hrow⟩

/-- Rows whose patterns agree on the bits that both rows fix are one row. -/
theorem opcodeTable_disjoint :
    ∀ r ∈ opcodeTable, ∀ q ∈ opcodeTable, r.pattern &&& q.mask = q.pattern &&& r.mask → r = q := by decide

/-- A word matches at most one row of the table. -/
theorem row_unique {r q : OpcodeRow} {op : Word} (hr : r ∈ opcodeTable) (hq : q ∈ opcodeTable)
    (hro : r.matchesWord op = true) (hqo : q.matchesWord op = true) : r = q := by
  refine opcodeTable_disjoint r hr q hq ?_
  calc r.pattern &&& q.mask = op &&& r.mask &&& q.mask := by rw [eq_of_beq hro]
    _ = op &&& q.mask &&& r.mask := by rw [BitVec.and_assoc, BitVec.and_comm r.mask, BitVec.and_assoc]
    _ = q.pattern &&& r.mask := by rw [eq_of_beq hqo]

/-- Settles O3: a word that decodes is the word of its instruction, whose row it matches; a word that matches a row
decodes; and two rows share no word. -/
theorem decodeFollowsTable : Obligations.DecodeFollowsTable := by
  intro op
  cases h : decodeWord op with
  | ok i =>
    have hrow : i.row.matchesWord op = true := by
      rw [← (encodeOfDecode op i h).2]
      exact beq_iff_eq.mpr (encode_matches_row i)
    exact .inl ⟨i, rfl, row_mem_opcodeTable i, hrow, fun r hr hro => row_unique hr (row_mem_opcodeTable i) hro hrow⟩
  | error e =>
    refine .inr ⟨congrArg _ (decodeWord_error h), fun r hr => ?_⟩
    obtain ⟨i, -, rfl⟩ := List.mem_map.mp hr
    refine Bool.eq_false_iff.mpr fun hro => ?_
    rw [rowDecodes_row i op (eq_of_beq hro)] at h
    cases h

/-! ### The illegal words (R84) -/

theorem decodeGroup0_eq_error (op : Word) :
    decodeGroup0 op = .error (.illegalInstruction op) ↔ op ≠ 0x00E0 ∧ op ≠ 0x00EE := by
  unfold decodeGroup0
  split_ifs <;> simp_all

theorem decodeXY0_eq_error (op : Word) (i : Instr) :
    decodeXY0 op i = .error (.illegalInstruction op) ↔ fieldN op ≠ 0 := by
  unfold decodeXY0
  split_ifs <;> simp_all

theorem decodeGroup8_eq_error (op : Word) :
    decodeGroup8 op = .error (.illegalInstruction op) ↔ fieldN op ∈ [0x8, 0x9, 0xA, 0xB, 0xC, 0xD, 0xF] := by
  have hlt : fieldN op < 16 := bits_lt 3 0 op
  simp only [decodeGroup8]
  generalize fieldN op = n at hlt ⊢
  interval_cases n <;> simp

theorem decodeGroupE_eq_error (op : Word) :
    decodeGroupE op = .error (.illegalInstruction op) ↔ bits 7 0 op ∉ [0x9E, 0xA1] := by
  simp only [decodeGroupE]
  split <;> simp_all

theorem decodeGroupF_eq_error (op : Word) :
    decodeGroupF op = .error (.illegalInstruction op) ↔
      bits 7 0 op ∉ [0x07, 0x0A, 0x15, 0x18, 0x1E, 0x29, 0x33, 0x55, 0x65] := by
  simp only [decodeGroupF]
  split <;> simp_all

/-- Settles O4: groups 1 to 4, 6, 7 and A to D have no illegal word, and each other group refuses the words of its own
family. -/
theorem illegalWordsAreTheFamilies : Obligations.IllegalWordsAreTheFamilies := by
  intro op
  have hlt := op.isLt
  have hfirst : op.toNat ≤ 0x0FFF ↔ op.toNat / 0x1000 = 0x0 := by omega
  have hdiv : op.toNat / 0x1000 = bits 15 12 op := by rw [group_eq]; omega
  have hgroup16 : bits 15 12 op < 16 := bits_lt 15 12 op
  rw [hfirst, hdiv, ← fieldN_eq, ← lowByte_eq]
  unfold decodeWord
  generalize bits 15 12 op = g at hgroup16 ⊢
  interval_cases g
  all_goals
    simp [decodeGroup0_eq_error, decodeXY0_eq_error, decodeGroup8_eq_error, decodeGroupE_eq_error,
      decodeGroupF_eq_error]

/-- Settles O5: each word is decoded as it stands. -/
theorem sampleWordsDecode : Obligations.SampleWordsDecode := by
  unfold Obligations.SampleWordsDecode
  decide

end Sys2Proof.Machine
end


section
/-! PROOFS. What a step answers in each of its cases, and that every step keeps the invariant. -/

namespace Sys2Proof.Machine

/-! ### The cases of a step (R80, R81, R84, R214) -/

/-- A stopped CORE stays as it is (R214). -/
theorem step_of_fault {s : State} {r : ErrorRecord} (h : s.fault = some r) : step s = .next s := by
  simp only [step, h]

/-- A failed fetch changes FAULT only (R81). -/
theorem step_of_fetch_error {s : State} {a : Nat} (hrun : s.fault = none) (hf : s.mem.fetch s.pc.toNat = .error a) :
    step s = .next { s with fault := some ⟨.outOfBounds, s.pc, none, some a⟩ } := by
  simp only [step, hrun, hf]
  rfl

/-- An illegal word changes FAULT only (R84). -/
theorem step_of_illegal {s : State} {op : Word} {e : DecodeError} (hrun : s.fault = none)
    (hf : s.mem.fetch s.pc.toNat = .ok op) (hd : decodeWord op = .error e) :
    step s = .next { s with fault := some ⟨.illegalInstruction, s.pc, some op, none⟩ } := by
  simp only [step, hrun, hf, hd]
  rfl

/-- A word that decodes is executed in the state its fetch left (R80). -/
theorem step_of_decoded {s : State} {op : Word} {i : Instr} (hrun : s.fault = none)
    (hf : s.mem.fetch s.pc.toNat = .ok op) (hd : decodeWord op = .ok i) : step s = exec i s.advance := by
  simp only [step, hrun, hf, hd]

/-- An error of an executed instruction changes FAULT only, against the state before the fetch (R213). -/
theorem raise_advance (k : ErrorKind) (i : Instr) (a : Option Nat) (s : State) :
    raise k i a s.advance = .next { s with fault := some ⟨k, s.pc, some (encode i), a⟩ } := by
  rw [raise_eq, State.advance_takeError]

/-- What the record of a fatal error raised by the step from `s` holds (R212). -/
structure RecordsStep (s : State) (r : ErrorRecord) : Prop where
  pc : r.pc = s.pc
  wellFormed : r.WellFormed
  opcode : ∀ op, s.mem.fetch s.pc.toNat = .ok op → r.opcode = some op
  fetchError : ∀ a, s.mem.fetch s.pc.toNat = .error a →
    r.kind = .outOfBounds ∧ r.opcode = none ∧ r.addr = some a

/-- The record of a failed fetch. -/
theorem RecordsStep.of_fetch_error {s : State} {a : Nat} (hf : s.mem.fetch s.pc.toNat = .error a) :
    RecordsStep s ⟨.outOfBounds, s.pc, none, some a⟩ where
  pc := rfl
  wellFormed := by
    obtain ⟨-, ha⟩ := (Memory.fetch_eq_error _ _ _).mp hf
    exact ⟨a, rfl, by omega⟩
  opcode op hop := by rw [hf] at hop; cases hop
  fetchError b hb := by rw [hf] at hb; cases hb; exact ⟨rfl, rfl, rfl⟩

/-- The record of an error raised after the fetch. -/
theorem RecordsStep.of_fetched {s : State} {r : ErrorRecord} {op : Word} (hf : s.mem.fetch s.pc.toNat = .ok op)
    (hpc : r.pc = s.pc) (hwf : r.WellFormed) (hop : r.opcode = some op) : RecordsStep s r where
  pc := hpc
  wellFormed := hwf
  opcode op' hop' := by rw [hf] at hop'; cases hop'; exact hop
  fetchError a ha := by rw [hf] at ha; cases ha

/-- A step of a running CORE records one error and changes nothing else, or it executes a fetched instruction, which
completes (R213, R215). -/
theorem step_flags_or_completes {s : State} (hrun : s.fault = none) :
    (∃ r, step s = .next { s with fault := some r } ∧ RecordsStep s r) ∨
      ∃ i t, step s = .next t ∧ exec i s.advance = .next t ∧ t.fault = none ∧ s.pc.toNat ≤ 0xFFE := by
  cases hf : s.mem.fetch s.pc.toNat with
  | error a => exact .inl ⟨_, step_of_fetch_error hrun hf, .of_fetch_error hf⟩
  | ok op =>
    cases hd : decodeWord op with
    | error e =>
      exact .inl ⟨_, step_of_illegal hrun hf hd, .of_fetched hf rfl ⟨rfl, op, rfl, decodeWord_error hd ▸ hd⟩ rfl⟩
    | ok i =>
      have hstep := step_of_decoded hrun hf hd
      have hword : encode i = op := (encodeOfDecode op i hd).2
      rcases exec_next_or_raise i s.advance with ⟨t, ht, hfault⟩ | ⟨k, a, hraise, hwf⟩
      · exact .inr ⟨i, t, hstep.trans ht, ht, hfault.trans hrun, ((Memory.fetch_eq_ok _ _ _).mp hf).1⟩
      · rw [State.advance_pc_sub] at hwf
        exact .inl ⟨_, hstep.trans (hraise.trans (raise_advance k i a s)),
          .of_fetched hf rfl hwf (congrArg some hword)⟩

/-! ### The invariant (R25, R26, R212) -/

/-- A state that agrees on memory, PC, stack slots and FAULT with one that meets the invariant meets it. -/
theorem State.Inv.of_same {s t : State} (h : s.Inv) (hmem : t.mem = s.mem) (hpc : t.pc = s.pc)
    (hslot : ∀ k, t.slot k = s.slot k) (hfault : t.fault = s.fault) : t.Inv where
  memory := hmem ▸ h.memory
  pc := hpc ▸ h.pc
  stack k := hslot k ▸ h.stack k
  fault r hr := hpc ▸ h.fault r (hfault ▸ hr)

/-- A recorded error is all that is new in a state that records one (R213). -/
theorem State.Inv.of_error {s : State} (h : s.Inv) {r : ErrorRecord} (hpc : r.pc = s.pc) (hr : r.WellFormed) :
    ({ s with fault := some r } : State).Inv where
  memory := h.memory
  pc := h.pc
  stack := h.stack
  fault q hq := by cases hq; exact ⟨hpc, hr⟩

/-- On a running CORE the invariant says nothing of FAULT. -/
theorem State.Inv.of_running {t : State} (hrun : t.fault = none) (hmem : t.mem.wf) (hpc : t.pc.toNat ≤ 0x1002)
    (hstack : ∀ k, (t.slot k).toNat ≤ 0x1000) : t.Inv :=
  ⟨hmem, hpc, hstack, fun r hr => by rw [hrun] at hr; cases hr⟩

/-- A store keeps the canonical form of memory. -/
theorem Memory.wf_store {m n : Memory} {base : Nat} {bs : List Byte} (h : m.wf)
    (hs : m.store base bs = .ok n) : n.wf := by
  obtain ⟨hrange, rfl⟩ := (Memory.store_eq_ok m n base bs).mp hs
  rcases hrange with hempty | hfits
  · rw [List.length_eq_zero_iff.mp hempty]; exact h
  · exact Memory.wf_writeBytes h hfits

theorem zext16_toNat (nnn : Addr) : (zext16 nnn).toNat = nnn.toNat :=
  BitVec.toNat_setWidth_of_le (by decide)

/-- The slots after a push: the slot at SP holds the value, the others are kept (R26). -/
theorem slot_pushed (s : State) (a : Word) (hsp : s.sp.val < 16) (n : Fin 17) (k : Fin 16) :
    ({ s with stack := s.stack.set s.sp.val a, sp := n } : State).slot k =
      if k.val = s.sp.val then a else s.slot k := by
  simp only [State.slot, Vector.getElem_set, eq_comm]

/-- A skip from the address after a word that was fetched stays within 0x1002 (R25, R107). -/
theorem skipIf_pc_le {s : State} (h : s.pc.toNat ≤ 0x1000) (c : Bool) : (s.skipIf c).pc.toNat ≤ 0x1002 := by
  rw [State.skipIf_pc]
  cases c
  case false => exact Nat.le_trans h (by decide)
  case true => simp; omega

/-- Whatever an instruction fetched below 0xFFF does when it completes, the invariant holds after it. -/
theorem State.Inv.of_effect {s t : State} {i : Instr} (hinv : s.Inv) (hpc : s.pc.toNat ≤ 0xFFE)
    (h : Effect s.advance i t) (hrun : t.fault = none) : t.Inv := by
  have hnext : s.advance.pc.toNat = s.pc.toNat + 2 := by
    rw [State.advance_pc, BitVec.toNat_add]
    exact Nat.mod_eq_of_lt (by simp; omega)
  cases h
  case raises => cases hrun
  case skips c _ =>
    exact .of_running hrun (by simpa using hinv.memory) (skipIf_pc_le (by omega) c)
      fun k => by simpa [State.slot] using hinv.stack k
  case jumps nnn =>
    have hlt := nnn.isLt
    exact .of_running hrun hinv.memory (by rw [State.setPc_pc, zext16_toNat]; omega) hinv.stack
  case calls nnn hsp =>
    have hlt := nnn.isLt
    refine .of_running hrun hinv.memory (by rw [State.setPc_pc, zext16_toNat]; omega) fun k => ?_
    rw [State.setPc_slot, slot_pushed _ _ hsp]
    split
    case isTrue => omega
    case isFalse => exact hinv.stack k
  case returns hsp =>
    exact .of_running hrun hinv.memory (Nat.le_trans (hinv.stack _) (by decide)) hinv.stack
  case keyWaits x =>
    refine .of_running hrun hinv.memory ?_ hinv.stack
    rw [State.setWait_pc, State.setPc_pc, State.advance_pc_sub]
    exact hinv.pc
  case storesDigits x m hm | storesRegs x m hm =>
    exact .of_running hrun (Memory.wf_store hinv.memory hm) (by simpa using by omega) hinv.stack
  all_goals
    exact .of_running hrun (by simpa using hinv.memory) (by simpa using by omega) (by simpa using hinv.stack)

/-- Settles O54: a step changes nothing, or records one error of the address in PC, or completes an instruction. -/
theorem stepKeepsInvariant : Obligations.StepKeepsInvariant := by
  intro s t hinv h
  cases hrun : s.fault with
  | some r =>
    rw [step_of_fault hrun] at h
    cases h
    exact hinv
  | none =>
    rcases step_flags_or_completes hrun with ⟨r, hstep, hr⟩ | ⟨i, u, hstep, hexec, hu, hpc⟩
    · rw [hstep] at h
      cases h
      exact hinv.of_error hr.pc hr.wellFormed
    · rw [hstep] at h
      cases h
      exact hinv.of_effect hpc (exec_effect hexec) hu

/-! ### The step's statements -/

/-- A fetch below 0xFFF reads the word whose value is that of its two bytes, high byte first (R57, R80). -/
theorem fetch_of_bytes {m : Memory} {a : Nat} {op : Word} (ha : a ≤ 0xFFE)
    (hop : op.toNat = 256 * (m.byte a).toNat + (m.byte (a + 1)).toNat) : m.fetch a = .ok op :=
  (Memory.fetch_eq_ok m a op).mpr ⟨ha, BitVec.eq_of_toNat_eq (hop.trans (wordOfBytes_toNat _ _).symm)⟩

/-- Settles O6: the cases of a step, with what a fetch answers at each address (R80, R81). -/
theorem stepFetchesDecodesExecutes : Obligations.StepFetchesDecodesExecutes := by
  refine fun s => ⟨fun r hr => step_of_fault hr, fun hrun => ⟨fun hpc => ?_, fun hpc => ?_, fun op hpc hop => ?_⟩⟩
  · exact step_of_fetch_error hrun ((Memory.fetch_eq_error _ _ _).mpr ⟨by omega, by omega⟩)
  · exact step_of_fetch_error hrun ((Memory.fetch_eq_error _ _ _).mpr ⟨by omega, by omega⟩)
  · have hf := fetch_of_bytes hpc hop
    exact ⟨fun i hd => step_of_decoded hrun hf hd, fun hd => step_of_illegal hrun hf hd⟩

/-- Settles O7: the two ways a step of a running CORE can go. -/
theorem stepAdvancesOrFlagsPrecisely : Obligations.StepAdvancesOrFlagsPrecisely := by
  intro s hrun
  rcases step_flags_or_completes hrun with ⟨r, hstep, hr⟩ | ⟨i, t, hstep, -, ht, -⟩
  · exact ⟨_, hstep, .inr ⟨r, rfl, hr.pc, hr.wellFormed, hr.opcode, hr.fetchError⟩⟩
  · exact ⟨t, hstep, .inl ht⟩

end Sys2Proof.Machine
end

section
/-! PROOFS. A stopped CORE, the reset that ends it, and what the host's transactions leave of the invariant. -/

namespace Sys2Proof.Machine

/-- Steps alone change nothing on a stopped CORE (R214). -/
theorem core_run_of_fault {s : State} {r : ErrorRecord} (h : s.fault = some r) (n : Nat) :
    core.run n s = .next s := by
  induction n with
  | zero => rfl
  | succ n ih => rw [core_run_succ n (step_of_fault h)]; exact ih

/-! ### Reset (R250 to R252) -/

theorem transact_reset (program : List Byte) (s : State) :
    transact (.reset program) s = .next { State.resetWith program with draws := s.draws } := rfl

theorem resetWith_of_fits {program : List Byte} (h : program.length ≤ 3584) :
    State.resetWith program = State.reset.setMem (State.reset.mem.writeBytes 0x200 program) :=
  if_neg (Nat.not_lt.mpr h)

theorem resetWith_of_long {program : List Byte} (h : 3584 < program.length) :
    State.resetWith program = State.reset.takeError .invalidRom 0x200 none (some program.length) := if_pos h

/-- Of the fields of the state after reset a program reaches memory and FAULT only (R250 to R252). -/
theorem resetWith_eq (program : List Byte) :
    ∃ m f, State.resetWith program = { State.reset with mem := m, fault := f } := by
  rcases Nat.lt_or_ge 3584 program.length with hlong | hfits
  · exact ⟨_, _, resetWith_of_long hlong⟩
  · exact ⟨_, _, resetWith_of_fits hfits⟩

/-- A byte after reset with the empty program: the font, and 0x00 above it (R35, R250). -/
theorem byte_reset (a : Nat) : State.reset.mem.byte a = if a < 0x050 then params.font.getD a 0x00 else 0x00 := rfl

/-- Settles O49: a program that fits is one write of its bytes from 0x200, over the font and zeros. -/
theorem resetLoadsProgram : Obligations.ResetLoadsProgram := by
  intro program s hfits
  rw [transact_reset, resetWith_of_fits hfits]
  refine ⟨_, rfl, rfl, rfl, fun k hk => ?_, fun k hk => ?_, fun a hfont hout => ?_⟩
  all_goals simp only [State.setMem_mem, Memory.byte_writeBytes, byte_reset]
  · rw [if_pos (by omega), Nat.add_sub_cancel_left]
  · rw [if_neg (by omega), if_pos hk]
  · rw [if_neg (by omega), if_neg (by omega)]

/-- Settles O50: a program that does not fit is an error, and no byte of memory is written. -/
theorem longProgramIsRefused : Obligations.LongProgramIsRefused := by
  intro program s hlong
  rw [transact_reset, resetWith_of_long hlong]
  refine ⟨_, rfl, rfl, fun a ha => ?_, core_run_of_fault rfl⟩
  exact (byte_reset a).trans (if_neg (by omega))

/-- Settles O51: the other fields are those of `State.reset`, but for the counter of draws. -/
theorem resetClearsRegisters : Obligations.ResetClearsRegisters := by
  intro program s
  obtain ⟨m, f, h⟩ := resetWith_eq program
  rw [transact_reset, h]
  refine ⟨_, rfl, fun r => ?_, rfl, rfl, fun k => ?_, rfl, rfl, fun k => ?_, rfl, Framebuffer.cell_blank, rfl, rfl⟩
  · exact Vector.getElem_replicate _
  · exact Vector.getElem_replicate _
  · exact Vector.getElem_replicate _

/-! ### A stopped CORE (R214) -/

/-- Settles O8: a step is the one transaction that a recorded error stops. -/
theorem stoppedUntilReset : Obligations.StoppedUntilReset := by
  intro s r hr
  refine ⟨core_run_of_fault hr, ⟨s.tick, transact_tick s, hr, ?_, ?_⟩,
    fun k => ⟨s.setKeys k, transact_setKeys k s, hr, rfl⟩,
    ⟨s.consumeFrame.2, transact_consumeFrame s, ?_⟩, fun program hfits => ⟨_, transact_reset program s, ?_⟩⟩
  · rw [State.tick_dt, tickTimer_toNat]; split <;> omega
  · rw [State.tick_st, tickTimer_toNat]; split <;> omega
  · cases hdirty : s.dirty with
    | true => rw [State.consumeFrame_of_dirty hdirty]; exact ⟨hr, rfl⟩
    | false => rw [State.consumeFrame_of_clean hdirty]; exact ⟨hr, hdirty⟩
  · rw [resetWith_of_fits hfits]; rfl

/-! ### The invariant at reset and over the host's transactions -/

/-- Settles O52: nothing is listed, PC is 0x200, every slot is 0 and no error is recorded. -/
theorem resetMeetsInvariant : Obligations.ResetMeetsInvariant :=
  .of_running rfl Memory.wf_nil (by decide) (by decide)

/-- After a reset with any program the invariant holds. -/
theorem resetWith_inv (program : List Byte) : (State.resetWith program).Inv := by
  rcases Nat.lt_or_ge 3584 program.length with hlong | hfits
  · rw [resetWith_of_long hlong]
    exact resetMeetsInvariant.of_error rfl ⟨rfl, _, rfl, hlong⟩
  · rw [resetWith_of_fits hfits]
    exact .of_running rfl (Memory.wf_writeBytes Memory.wf_nil (by omega)) resetMeetsInvariant.pc
      resetMeetsInvariant.stack

/-- Settles O53: a reset starts anew, and no other transaction reaches memory, PC, the stack or FAULT. -/
theorem transactionsKeepInvariant : Obligations.TransactionsKeepInvariant := by
  intro tr s t hstep hinv h
  cases tr with
  | reset program =>
    cases h
    exact (resetWith_inv program).of_same rfl rfl (fun _ => rfl) rfl
  | setKeys k => cases h; exact hinv.of_same rfl rfl (fun _ => rfl) rfl
  | step => exact absurd rfl hstep
  | tick => cases h; exact hinv.of_same rfl rfl (fun _ => rfl) rfl
  | consumeFrame =>
    cases h
    cases hdirty : s.dirty with
    | true => rw [State.consumeFrame_of_dirty hdirty]; exact hinv.of_same rfl rfl (fun _ => rfl) rfl
    | false => rw [State.consumeFrame_of_clean hdirty]; exact hinv
  | observe => cases h; exact hinv

end Sys2Proof.Machine
end


section
/-! PROOFS. What is left unchanged: the frame of each state update, and of one update after another. -/

namespace Sys2Proof.Machine

theorem Part.same_trans {p : Part} {s t u : State} (h : p.same s t) (h' : p.same t u) : p.same s u := by
  cases p <;> simp_all [Part.same]

/-- One change after another leaves all that both leave. -/
theorem Unchanged.trans {a b : List Part} {s t u : State} (h : Unchanged a s t) (h' : Unchanged b t u) :
    Unchanged (a ++ b) s u := fun p hp =>
  Part.same_trans (h p fun ha => hp (List.mem_append_left b ha)) (h' p fun hb => hp (List.mem_append_right a hb))

theorem Unchanged.mono {a b : List Part} {s t : State} (h : Unchanged a s t) (hab : a ⊆ b) : Unchanged b s t :=
  fun p hp => h p fun ha => hp (hab ha)

theorem setPc_unchanged (s : State) (a : Word) : Unchanged [.pc] s (s.setPc a) := by
  intro p hp
  cases p
  case pc => exact absurd (List.mem_singleton_self _) hp
  all_goals simp [Part.same]

theorem setI_unchanged (s : State) (a : Word) : Unchanged [.index] s (s.setI a) := by
  intro p hp
  cases p
  case index => exact absurd (List.mem_singleton_self _) hp
  all_goals simp [Part.same]

theorem setMem_unchanged (s : State) (m : Memory) : Unchanged [.mem] s (s.setMem m) := by
  intro p hp
  cases p
  case mem => exact absurd (List.mem_singleton_self _) hp
  all_goals simp [Part.same]

theorem setRegs_unchanged (s : State) (bs : List Byte) : Unchanged [.regs] s (s.setRegs bs) := by
  intro p hp
  cases p
  case regs => exact absurd (List.mem_singleton_self _) hp
  all_goals simp [Part.same]

theorem setWait_unchanged (s : State) (b : Bool) : Unchanged [.wait] s (s.setWait b) := by
  intro p hp
  cases p
  case wait => exact absurd (List.mem_singleton_self _) hp
  all_goals simp [Part.same]

theorem nextDraw_unchanged (s : State) : Unchanged [.draws] s s.nextDraw := by
  intro p hp
  cases p
  case draws => exact absurd (List.mem_singleton_self _) hp
  all_goals simp [Part.same]

/-- A write of the stack's slots and SP leaves every other piece of state as it is. -/
theorem setStack_unchanged (s : State) (slots : Vector Word 16) (n : Fin 17) :
    Unchanged [.stack] s { s with stack := slots, sp := n } := by
  intro p hp
  cases p
  case stack => exact absurd (List.mem_singleton_self _) hp
  all_goals simp [Part.same, State.reg, State.key]

/-- A skip leaves every piece of state but PC as it is (R107). -/
theorem skipIf_unchanged (s : State) (c : Bool) : Unchanged [.pc] s (s.skipIf c) := by
  rw [State.skipIf_eq]
  exact setPc_unchanged s _

end Sys2Proof.Machine
end

section
/-! PROOFS. Control transfer: the jump, the call and the return, and the skips. -/

namespace Sys2Proof.Machine

/-! ### Jump, call and return (R100 to R102) -/

theorem exec_jp (nnn : Addr) (s : State) : exec (.jp nnn) s = .next (s.setPc (zext16 nnn)) := rfl

/-- Settles O9: the jump is one write of PC (R100), and no word lies at 0xFFF (R81). -/
theorem jumpSetsProgramCounter : Obligations.JumpSetsProgramCounter := by
  refine ⟨rowDecodes_row (.jp 0), fun nnn s =>
    ⟨s.setPc (zext16 nnn), exec_jp nnn s, zext16_toNat nnn, setPc_unchanged s _, ?_⟩⟩
  rintro rfl hrun
  exact step_of_fetch_error hrun ((Memory.fetch_eq_error _ 0xFFF 0x1000).mpr (by decide))

theorem exec_call_of_lt (nnn : Addr) {s : State} (h : s.sp.val < 16) :
    exec (.call nnn) s = .next (State.setPc { s with
      stack := s.stack.set s.sp.val s.pc, sp := ⟨s.sp.val + 1, by omega⟩ } (zext16 nnn)) := by
  simp only [exec, execCall, State.push_of_lt s _ h]

theorem exec_call_full (nnn : Addr) {s : State} (h : ¬s.sp.val < 16) :
    exec (.call nnn) s = raise .stackOverflow (.call nnn) none s := by
  simp only [exec, execCall, State.push_full s _ h]

theorem exec_ret_of_pos {s : State} (h : s.sp.val ≠ 0) :
    exec .ret s = .next (State.setPc { s with sp := ⟨s.sp.val - 1, by omega⟩ }
      (s.slot ⟨s.sp.val - 1, by omega⟩)) := by
  simp only [exec, execRet, State.pop_of_pos s h]

theorem exec_ret_empty {s : State} (h : s.sp.val = 0) : exec .ret s = raise .stackUnderflow .ret none s := by
  simp only [exec, execRet, State.pop_empty s h]

/-- Settles O10: the call is a push of PC and a write of PC, or the error of a push on a full stack (R102). -/
theorem callPushesReturnAddress : Obligations.CallPushesReturnAddress := by
  refine ⟨rowDecodes_row (.call 0), fun nnn s => ⟨fun h => ?_, fun h => exec_call_full nnn (by omega)⟩⟩
  refine ⟨_, exec_call_of_lt nnn h, zext16_toNat nnn, rfl, slot_pushed s s.pc h ⟨s.sp.val + 1, by omega⟩, ?_⟩
  exact ((setStack_unchanged s _ _).trans (setPc_unchanged _ _)).mono (by decide)

/-- Settles O11: the return is a pop into PC, or the error of a pop of an empty stack (R101). -/
theorem returnPopsStack : Obligations.ReturnPopsStack := by
  refine ⟨rowDecodes_row .ret, fun s => ⟨exec_ret_empty, fun k hk => ?_⟩⟩
  have hk' : s.sp.val - 1 = k.val := by omega
  refine ⟨_, exec_ret_of_pos (by omega), congrArg s.slot (Fin.ext hk'), hk', fun _ => rfl, ?_⟩
  exact ((setStack_unchanged s s.stack _).trans (setPc_unchanged _ _)).mono (by decide)

/-- Settles O12: the return takes the slot the call wrote. -/
theorem returnResumesAfterCall : Obligations.ReturnResumesAfterCall := by
  intro nnn a s h
  obtain ⟨t, ht, -, hsp, hslot, hcall⟩ := (callPushesReturnAddress.2 nnn s).1 h
  obtain ⟨u, hu, hpc, hsp', hslot', hret⟩ := (returnPopsStack.2 (t.setPc a)).2 ⟨s.sp.val, h⟩ hsp
  refine ⟨t, u, ht, hu, ?_, Fin.ext hsp', fun k hk => ?_, ?_⟩
  · rw [hpc, State.setPc_slot, hslot, if_pos rfl]
  · rw [hslot', State.setPc_slot, hslot, if_neg (Nat.ne_of_lt hk)]
  · exact ((hcall.trans (setPc_unchanged t a)).trans hret).mono (by decide)

/-! ### The skips (R103 to R107, R190, R191) -/

/-- An instruction whose meaning is one `skipIf` skips exactly when its condition holds. -/
theorem skipsWhen_of_skipIf {p : Prop} {c : Bool} {i : Instr} {s : State} (h : exec i s = .next (s.skipIf c))
    (hc : c = true ↔ p) : SkipsWhen p i s := by
  refine ⟨_, h, fun hp => ?_, fun hp => ?_, skipIf_unchanged s c⟩
  · rw [State.skipIf_pc, if_pos (hc.mpr hp)]
  · rw [State.skipIf_pc, if_neg (mt hc.mp hp)]

theorem exec_seImm (x : Reg) (nn : Byte) (s : State) :
    exec (.seImm x nn) s = .next (s.skipIf (s.reg x == nn)) := rfl

theorem exec_sneImm (x : Reg) (nn : Byte) (s : State) :
    exec (.sneImm x nn) s = .next (s.skipIf (s.reg x != nn)) := rfl

theorem exec_seReg (x y : Reg) (s : State) : exec (.seReg x y) s = .next (s.skipIf (s.reg x == s.reg y)) := rfl

theorem exec_sneReg (x y : Reg) (s : State) : exec (.sneReg x y) s = .next (s.skipIf (s.reg x != s.reg y)) := rfl

theorem exec_skp_of_digit {x : Reg} {s : State} {k : Fin 16} (h : (s.reg x).toNat = k.val) :
    exec (.skp x) s = .next (s.skipIf (s.key k)) := by
  simp only [exec, execSkp, (digitOf_eq_some _ k).mpr h]

theorem exec_sknp_of_digit {x : Reg} {s : State} {k : Fin 16} (h : (s.reg x).toNat = k.val) :
    exec (.sknp x) s = .next (s.skipIf (!s.key k)) := by
  simp only [exec, execSknp, (digitOf_eq_some _ k).mpr h]

theorem exec_skp_of_no_digit {x : Reg} {s : State} (h : 0xF < (s.reg x).toNat) :
    exec (.skp x) s = raise .outOfBounds (.skp x) (some (s.reg x).toNat) s := by
  simp only [exec, execSkp, (digitOf_eq_none _).mpr h]

theorem exec_sknp_of_no_digit {x : Reg} {s : State} (h : 0xF < (s.reg x).toNat) :
    exec (.sknp x) s = raise .outOfBounds (.sknp x) (some (s.reg x).toNat) s := by
  simp only [exec, execSknp, (digitOf_eq_none _).mpr h]

/-- Settles O13: both are one `skipIf`, of the comparison with the constant. -/
theorem skipsOnConstant : Obligations.SkipsOnConstant :=
  ⟨rowDecodes_row (.seImm 0 0), rowDecodes_row (.sneImm 0 0), fun x nn s =>
    ⟨skipsWhen_of_skipIf (exec_seImm x nn s) beq_iff_eq, skipsWhen_of_skipIf (exec_sneImm x nn s) bne_iff_ne⟩⟩

/-- Settles O14: both are one `skipIf`, of the comparison of the registers. -/
theorem skipsOnRegisters : Obligations.SkipsOnRegisters :=
  ⟨rowDecodes_row (.seReg 0 0), rowDecodes_row (.sneReg 0 0), fun x y s =>
    ⟨skipsWhen_of_skipIf (exec_seReg x y s) beq_iff_eq, skipsWhen_of_skipIf (exec_sneReg x y s) bne_iff_ne⟩⟩

/-- Settles O15: with a key index in VX both are one `skipIf`, of that key's latch; else both raise (D12). -/
theorem skipsOnKey : Obligations.SkipsOnKey :=
  ⟨rowDecodes_row (.skp 0), rowDecodes_row (.sknp 0), fun _ _ =>
    ⟨fun _ hk => ⟨skipsWhen_of_skipIf (exec_skp_of_digit hk) Iff.rfl,
        skipsWhen_of_skipIf (exec_sknp_of_digit hk) (by rw [Bool.not_eq_true'])⟩,
      fun h => ⟨exec_skp_of_no_digit h, exec_sknp_of_no_digit h⟩⟩⟩

end Sys2Proof.Machine
end


section
/-! PROOFS. Register arithmetic and logic: results written with and without a flag, and the random byte. -/

namespace Sys2Proof.Machine

/-! ### Results without a flag (R122 to R125) -/

theorem exec_ldReg (x y : Reg) (s : State) : exec (.ldReg x y) s = .next (s.setReg x (s.reg y)) := rfl

theorem exec_orReg (x y : Reg) (s : State) : exec (.orReg x y) s = .next (s.setReg x (s.reg x ||| s.reg y)) := rfl

theorem exec_andReg (x y : Reg) (s : State) : exec (.andReg x y) s = .next (s.setReg x (s.reg x &&& s.reg y)) := rfl

theorem exec_xorReg (x y : Reg) (s : State) : exec (.xorReg x y) s = .next (s.setReg x (s.reg x ^^^ s.reg y)) := rfl

/-- An instruction whose meaning is one `setReg` writes the bits of that byte and nothing else. -/
theorem writesBits_of_setReg {x : Reg} {b : Byte} {bit : Nat → Bool} {i : Instr} {s : State}
    (h : exec i s = .next (s.setReg x b)) (hb : ∀ k, b.getLsbD k = bit k) :
    ∃ t, exec i s = .next t ∧ RegsUnchanged [x] s t ∧ Unchanged [.regs] s t ∧ ∀ k, (t.reg x).getLsbD k = bit k :=
  ⟨_, h, setReg_regsUnchanged s x b, setReg_unchanged s x b, fun k => by rw [State.setReg_reg, if_pos rfl, hb]⟩

/-- Settles O17: each meaning is one `setReg`, and the bits of OR, AND and XOR are those of the operands. -/
theorem copyAndLogic : Obligations.CopyAndLogic :=
  ⟨rowDecodes_row (.ldReg 0 0), rowDecodes_row (.orReg 0 0), rowDecodes_row (.andReg 0 0), rowDecodes_row (.xorReg 0 0),
    fun x y s =>
      ⟨writesReg_of_setReg (exec_ldReg x y s) rfl,
        writesBits_of_setReg (exec_orReg x y s) fun _ => BitVec.getLsbD_or,
        writesBits_of_setReg (exec_andReg x y s) fun _ => BitVec.getLsbD_and,
        writesBits_of_setReg (exec_xorReg x y s) fun _ => BitVec.getLsbD_xor⟩⟩

/-! ### Results with a flag (R126 to R130) -/

/-- The flag is the last write, so VF holds it whatever VX is (R23, R119). -/
theorem writesResultAndFlag_of_setRegFlag {x : Reg} {b f : Byte} {result flag : Nat} {i : Instr} {s : State}
    (h : exec i s = .next (s.setRegFlag x b f)) (hb : b.toNat = result) (hf : f.toNat = flag) :
    WritesResultAndFlag x result flag i s := by
  refine ⟨_, h, fun hx => ?_, ?_, fun r hr => ?_, ?_⟩
  · rw [State.setRegFlag_reg, if_neg hx, if_pos rfl, hb]
  · rw [State.setRegFlag_reg, if_pos rfl, hf]
  · obtain ⟨hx, hVF⟩ := not_or.mp (mt List.mem_pair.mpr hr)
    rw [State.setRegFlag_reg, if_neg hVF, if_neg hx]
  · exact ((setReg_unchanged s x b).trans (setReg_unchanged _ VF f)).mono (by decide)

theorem flagOf_toNat (b : Bool) : (flagOf b).toNat = if b then 1 else 0 := by
  cases b <;> rfl

theorem carryFlag_toNat (a b : Byte) : (carryFlag a b).toNat = if 0xFF < a.toNat + b.toNat then 1 else 0 := by
  simp [carryFlag, flagOf_toNat]

/-- VF after a subtraction is 1 exactly when a borrow occurred, as CORE reads SUB_FLAG (D6). -/
theorem differenceFlag_toNat (a b : Byte) :
    (differenceFlag params.subFlag a b).toNat = if a.toNat < b.toNat then 1 else 0 := by
  simp [params, differenceFlag, flagOf_toNat]

theorem subtract8_toNat (a b : Byte) : (subtract8 a b).toNat = (a.toNat + 256 - b.toNat) % 256 := trunc8_toNat _

theorem shiftRight_toNat (b : Byte) : (b >>> 1).toNat = b.toNat / 2 := by
  rw [BitVec.toNat_ushiftRight, Nat.shiftRight_one]

theorem shiftRightFlag_toNat (b : Byte) : (shiftRightFlag b).toNat = b.toNat % 2 := by
  rw [shiftRightFlag, BitVec.toNat_and]
  exact Nat.and_one_is_mod b.toNat

theorem shiftLeft_toNat (b : Byte) : (b <<< 1).toNat = 2 * b.toNat % 256 := by
  rw [BitVec.toNat_shiftLeft, Nat.shiftLeft_eq, Nat.mul_comm]

/-- VF after a left shift is the bit shifted out, in its place, as CORE reads SHL_FLAG (D7). -/
theorem shiftLeftFlag_toNat (b : Byte) :
    (shiftLeftFlag params.shlFlag b).toNat = if 0x80 ≤ b.toNat then 0x80 else 0 := by
  have hlt := b.isLt
  have hmask : (b &&& 0x80#8).toNat = (b.toNat.testBit 7).toNat * 2 ^ 7 := by
    rw [BitVec.toNat_and]
    exact Nat.and_two_pow b.toNat 7
  have hbit : b.toNat.testBit 7 = decide (0x80 ≤ b.toNat) := by
    rw [Nat.testBit_eq_decide_div_mod_eq, decide_eq_decide]
    omega
  rw [params, shiftLeftFlag, hmask, hbit]
  split
  case isTrue h => rw [decide_eq_true h]; rfl
  case isFalse h => rw [decide_eq_false h]; rfl

theorem exec_addReg (x y : Reg) (s : State) : exec (.addReg x y) s =
    .next (s.setRegFlag x (trunc8 ((s.reg x).toNat + (s.reg y).toNat)) (carryFlag (s.reg x) (s.reg y))) := rfl

theorem exec_sub (x y : Reg) (s : State) : exec (.sub x y) s =
    .next (s.setRegFlag x (subtract8 (s.reg x) (s.reg y))
      (differenceFlag params.subFlag (s.reg x) (s.reg y))) := rfl

theorem exec_subn (x y : Reg) (s : State) : exec (.subn x y) s =
    .next (s.setRegFlag x (subtract8 (s.reg y) (s.reg x))
      (differenceFlag params.subFlag (s.reg y) (s.reg x))) := rfl

theorem exec_shr (x y : Reg) (s : State) : exec (.shr x y) s =
    .next (s.setRegFlag x (s.reg x >>> 1) (shiftRightFlag (s.reg x))) := rfl

theorem exec_shl (x y : Reg) (s : State) : exec (.shl x y) s =
    .next (s.setRegFlag x (s.reg x <<< 1) (shiftLeftFlag params.shlFlag (s.reg x))) := rfl

/-- Settles O18: the truncated sum, then the carry (R126). -/
theorem addSetsCarry : Obligations.AddSetsCarry :=
  ⟨rowDecodes_row (.addReg 0 0), fun x y s =>
    writesResultAndFlag_of_setRegFlag (exec_addReg x y s) (trunc8_toNat _) (carryFlag_toNat _ _)⟩

/-- Settles O19: the difference, then the borrow, of VX and VY in either order (R127, R129). -/
theorem subtractSetsBorrow : Obligations.SubtractSetsBorrow :=
  ⟨rowDecodes_row (.sub 0 0), rowDecodes_row (.subn 0 0), fun x y s =>
    ⟨writesResultAndFlag_of_setRegFlag (exec_sub x y s) (subtract8_toNat _ _) (differenceFlag_toNat _ _),
      writesResultAndFlag_of_setRegFlag (exec_subn x y s) (subtract8_toNat _ _) (differenceFlag_toNat _ _)⟩⟩

/-- Settles O20: the half, then the bit shifted out (R128). -/
theorem shiftRightSetsLowBit : Obligations.ShiftRightSetsLowBit :=
  ⟨rowDecodes_row (.shr 0 0), fun x y s =>
    writesResultAndFlag_of_setRegFlag (exec_shr x y s) (shiftRight_toNat _) (shiftRightFlag_toNat _)⟩

/-- Settles O21: the double, then the raw bit shifted out (R130). -/
theorem shiftLeftSetsRawHighBit : Obligations.ShiftLeftSetsRawHighBit :=
  ⟨rowDecodes_row (.shl 0 0), fun x y s =>
    writesResultAndFlag_of_setRegFlag (exec_shl x y s) (shiftLeft_toNat _) (shiftLeftFlag_toNat _)⟩

/-! ### The random byte (R138) -/

theorem exec_rnd (x : Reg) (nn : Byte) (s : State) :
    exec (.rnd x nn) s = .next (rndWith (Config.randomByte s.draws) x nn s) := rfl

/-- Settles O22: for every draw the meaning is one `setReg` of the masked byte, and one move of the source. -/
theorem randomByteIsMasked : Obligations.RandomByteIsMasked := by
  refine ⟨rowDecodes_row (.rnd 0 0), fun x nn s =>
    ⟨⟨_, exec_rnd x nn s, rfl, rfl⟩, fun draw => ⟨fun k => ?_, ?_, ?_⟩⟩⟩
  · rw [rndWith, State.nextDraw_reg, State.setReg_reg, if_pos rfl, BitVec.getLsbD_and]
  · exact setReg_regsUnchanged s x (draw &&& nn)
  · exact ((setReg_unchanged s x _).trans (nextDraw_unchanged _)).mono (by decide)

end Sys2Proof.Machine
end

section
/-! PROOFS. The index register: loads, the checked addition and the font lookup. -/

namespace Sys2Proof.Machine

theorem trunc16_toNat_of_le {n : Nat} (h : n ≤ 0xFFFF) : (trunc16 n).toNat = n :=
  Nat.mod_eq_of_lt (Nat.lt_succ_of_le h)

/-- An instruction whose meaning is one `setI` writes I and nothing else. -/
theorem writesIndex_of_setI {a : Word} {value : Nat} {i : Instr} {s : State} (h : exec i s = .next (s.setI a))
    (ha : a.toNat = value) : WritesIndex value i s := ⟨_, h, ha, setI_unchanged s a⟩

theorem exec_ldI (nnn : Addr) (s : State) : exec (.ldI nnn) s = .next (s.setI (zext16 nnn)) := rfl

theorem exec_ldIV0 (nnn : Addr) (s : State) :
    exec (.ldIV0 nnn) s = .next (s.setI (trunc16 (nnn.toNat + (s.reg 0).toNat))) := rfl

theorem exec_addIVx_of_le {x : Reg} {s : State} (h : s.i.toNat + (s.reg x).toNat ≤ 0xFFFF) :
    exec (.addIVx x) s = .next (s.setI (trunc16 (s.i.toNat + (s.reg x).toNat))) := if_neg (Nat.not_lt.mpr h)

theorem exec_addIVx_overflow {x : Reg} {s : State} (h : 0xFFFF < s.i.toNat + (s.reg x).toNat) :
    exec (.addIVx x) s = raise .outOfBounds (.addIVx x) (some (s.i.toNat + (s.reg x).toNat)) s := if_pos h

theorem exec_ldFVx_of_digit {x : Reg} {s : State} {d : Fin 16} (h : (s.reg x).toNat = d.val) :
    exec (.ldFVx x) s = .next (s.setI (glyphAddr d)) := by
  simp only [exec, execLdFVx, (digitOf_eq_some _ d).mpr h]

theorem exec_ldFVx_of_no_digit {x : Reg} {s : State} (h : 0xF < (s.reg x).toNat) :
    exec (.ldFVx x) s = raise .outOfBounds (.ldFVx x) (some (s.reg x).toNat) s := by
  simp only [exec, execLdFVx, (digitOf_eq_none _).mpr h]

/-- Settles O23: a 12-bit constant and a byte added to it fit I's 16 bits. -/
theorem indexLoads : Obligations.IndexLoads := by
  refine ⟨rowDecodes_row (.ldI 0), rowDecodes_row (.ldIV0 0), fun nnn s => ⟨?_, ?_⟩⟩
  · exact writesIndex_of_setI (exec_ldI nnn s) (zext16_toNat nnn)
  · have hnnn := nnn.isLt
    have hv0 := (s.reg 0).isLt
    exact writesIndex_of_setI (exec_ldIV0 nnn s) (trunc16_toNat_of_le (by omega))

/-- Settles O24: a sum that fits is written whole, any other raises (D14). -/
theorem indexAddChecksOverflow : Obligations.IndexAddChecksOverflow :=
  ⟨rowDecodes_row (.addIVx 0), fun _ _ =>
    ⟨fun h => writesIndex_of_setI (exec_addIVx_of_le h) (trunc16_toNat_of_le h), exec_addIVx_overflow⟩⟩

/-- Settles O25: a digit's glyph has its address, and no other value of VX has one (D11). -/
theorem fontLookupPointsAtGlyph : Obligations.FontLookupPointsAtGlyph :=
  ⟨rowDecodes_row (.ldFVx 0), fun x s =>
    ⟨fun h => writesIndex_of_setI (exec_ldFVx_of_digit (d := ⟨(s.reg x).toNat, Nat.lt_succ_of_le h⟩) rfl)
        (trunc16_toNat_of_le (by omega)), exec_ldFVx_of_no_digit⟩⟩

end Sys2Proof.Machine
end


section
/-! PROOFS. Loads and stores from I on, and the code a store leaves for the next step. -/

namespace Sys2Proof.Machine

theorem effAddr_eq (s : State) (k : Nat) : s.effAddr k = s.effAddr 0 + k := rfl

/-! ### Stores (R155, R156) -/

theorem store_of_fits (m : Memory) {base : Nat} {bs : List Byte} (h : base + bs.length ≤ 0x1000) :
    m.store base bs = .ok (m.writeBytes base bs) :=
  (Memory.store_eq_ok _ _ _ _).mpr ⟨.inr h, rfl⟩

theorem store_beyond (m : Memory) {base : Nat} {bs : List Byte} (hne : 0 < bs.length)
    (h : 0x1000 < base + bs.length) : m.store base bs = .error (max base 0x1000) :=
  (Memory.store_eq_error _ _ _ _).mpr ⟨hne, h, rfl⟩

theorem exec_ldBVx_of_fits {x : Reg} {s : State} (h : s.effAddr 2 ≤ 0xFFF) :
    exec (.ldBVx x) s = .next (s.setMem (s.mem.writeBytes (s.effAddr 0) (bcdDigits (s.reg x)))) := by
  rw [effAddr_eq] at h
  simp only [exec, execLdBVx, store_of_fits s.mem (bs := bcdDigits (s.reg x))
    (show s.effAddr 0 + 3 ≤ 0x1000 by omega)]

theorem exec_ldBVx_beyond {x : Reg} {s : State} (h : 0xFFF < s.effAddr 2) :
    exec (.ldBVx x) s = raise .outOfBounds (.ldBVx x) (some (max (s.effAddr 0) 0x1000)) s := by
  rw [effAddr_eq] at h
  simp only [exec, execLdBVx, store_beyond s.mem (bs := bcdDigits (s.reg x)) (Nat.succ_pos 2)
    (show 0x1000 < s.effAddr 0 + 3 by omega)]

theorem exec_ldMIVx_of_fits {x : Reg} {s : State} (h : s.effAddr x.val ≤ 0xFFF) :
    exec (.ldMIVx x) s = .next (s.setMem (s.mem.writeBytes (s.effAddr 0) (s.regsUpTo x))) := by
  rw [effAddr_eq] at h
  have hfits : s.effAddr 0 + (s.regsUpTo x).length ≤ 0x1000 := by rw [State.regsUpTo_length]; omega
  simp only [exec, execLdMIVx, store_of_fits s.mem hfits]

theorem exec_ldMIVx_beyond {x : Reg} {s : State} (h : 0xFFF < s.effAddr x.val) :
    exec (.ldMIVx x) s = raise .outOfBounds (.ldMIVx x) (some (max (s.effAddr 0) 0x1000)) s := by
  rw [effAddr_eq] at h
  have hbeyond : 0x1000 < s.effAddr 0 + (s.regsUpTo x).length := by rw [State.regsUpTo_length]; omega
  have hne : 0 < (s.regsUpTo x).length := by rw [State.regsUpTo_length]; omega
  simp only [exec, execLdMIVx, store_beyond s.mem hne hbeyond]

/-- The byte at `I + k` after a store from I on. -/
theorem byte_stored (s : State) {bs : List Byte} {k : Nat} (hk : k < bs.length) :
    (s.mem.writeBytes (s.effAddr 0) bs).byte (s.effAddr k) = bs.getD k 0 := by
  rw [effAddr_eq s k, Memory.byte_writeBytes, if_pos (by omega), Nat.add_sub_cancel_left]

/-- A store leaves every byte outside its range as it is. -/
theorem bytesUnchanged_stored (s : State) (base : Nat) (bs : List Byte) :
    BytesUnchanged base bs.length s (s.setMem (s.mem.writeBytes base bs)) := by
  intro a ha
  rw [State.setMem_mem, Memory.byte_writeBytes, if_neg ha]

/-- Settles O26: the digits are stored in turn, and each fits a byte (R155). -/
theorem bcdStoresDigits : Obligations.BcdStoresDigits := by
  refine ⟨rowDecodes_row (.ldBVx 0), fun x s => ⟨fun h => ?_, exec_ldBVx_beyond⟩⟩
  have hlt := (s.reg x).isLt
  have hdigit : ∀ k < 3, ((s.mem.writeBytes (s.effAddr 0) (bcdDigits (s.reg x))).byte (s.effAddr k)).toNat =
      ((bcdDigits (s.reg x)).getD k 0).toNat := fun k hk => congrArg BitVec.toNat (byte_stored s hk)
  refine ⟨_, exec_ldBVx_of_fits h, ?_, ?_, ?_, bytesUnchanged_stored s _ (bcdDigits (s.reg x)), setMem_unchanged s _⟩
  · exact (hdigit 0 (by decide)).trans ((trunc8_toNat _).trans (by omega))
  · exact (hdigit 1 (by decide)).trans ((trunc8_toNat _).trans (by omega))
  · exact (hdigit 2 (by decide)).trans ((trunc8_toNat _).trans (by omega))

/-- Settles O27: the registers are stored in turn (R156). -/
theorem dumpStoresRegisters : Obligations.DumpStoresRegisters := by
  refine ⟨rowDecodes_row (.ldMIVx 0), fun x s => ⟨fun h => ?_, exec_ldMIVx_beyond⟩⟩
  have hlen := State.regsUpTo_length s x
  refine ⟨_, exec_ldMIVx_of_fits h, fun k hk => ?_, hlen ▸ bytesUnchanged_stored s _ _, setMem_unchanged s _⟩
  have hkx : k.val ≤ x.val := hk
  rw [State.setMem_mem, byte_stored s (by omega), List.getD_eq_getElem?_getD, State.regsUpTo_getElem?, if_pos hk]
  rfl

/-! ### Loads (R157) -/

theorem load_of_fits (m : Memory) {base len : Nat} (h : len = 0 ∨ base + len ≤ 0x1000) :
    m.load base len = .ok (m.readBytes base len) :=
  (Memory.load_eq_ok _ _ _ _).mpr ⟨h, rfl⟩

theorem load_beyond (m : Memory) {base len : Nat} (hne : 0 < len) (h : 0x1000 < base + len) :
    m.load base len = .error (max base 0x1000) :=
  (Memory.load_eq_error _ _ _ _).mpr ⟨hne, h, rfl⟩

theorem exec_ldVxMI_of_fits {x : Reg} {s : State} (h : s.effAddr x.val ≤ 0xFFF) :
    exec (.ldVxMI x) s = .next (s.setRegs (s.mem.readBytes (s.effAddr 0) (x.val + 1))) := by
  rw [effAddr_eq] at h
  simp only [exec, execLdVxMI, load_of_fits s.mem (show x.val + 1 = 0 ∨ s.effAddr 0 + (x.val + 1) ≤ 0x1000 by omega)]

theorem exec_ldVxMI_beyond {x : Reg} {s : State} (h : 0xFFF < s.effAddr x.val) :
    exec (.ldVxMI x) s = raise .outOfBounds (.ldVxMI x) (some (max (s.effAddr 0) 0x1000)) s := by
  rw [effAddr_eq] at h
  simp only [exec, execLdVxMI, load_beyond s.mem (Nat.succ_pos x.val)
    (show 0x1000 < s.effAddr 0 + (x.val + 1) by omega)]

/-- A register after a load from I on: those the bytes reach hold them, the others are kept. -/
theorem reg_loaded (s : State) (m : Memory) (x k : Reg) :
    (s.setRegs (m.readBytes (s.effAddr 0) (x.val + 1))).reg k =
      if k ≤ x then m.byte (s.effAddr k.val) else s.reg k := by
  rw [State.setRegs_reg, List.getD_eq_getElem?_getD, Memory.readBytes_getElem?]
  simp only [Nat.lt_succ_iff, Fin.le_def]
  split <;> rfl

/-- Settles O28: the bytes are loaded in turn, into the registers up to VX only (R157). -/
theorem loadFillsRegisters : Obligations.LoadFillsRegisters :=
  ⟨rowDecodes_row (.ldVxMI 0), fun x s =>
    ⟨fun h => ⟨_, exec_ldVxMI_of_fits h, reg_loaded s s.mem x, setRegs_unchanged s _⟩, exec_ldVxMI_beyond⟩⟩

/-! ### A store and what reads it (R60, R62) -/

/-- Settles O29: a dump leaves I as it is, so the load reads the bytes it stored. -/
theorem loadRestoresDump : Obligations.LoadRestoresDump := by
  intro x s v h
  obtain ⟨t, ht, hbyte, -, hsame⟩ := (dumpStoresRegisters.2 x s).1 h
  have hi : t.i = s.i := hsame .index (by decide)
  have haddr : ∀ k, ({ t with v := v } : State).effAddr k = s.effAddr k := fun k => by simp only [State.effAddr, hi]
  obtain ⟨u, hu, hreg, -⟩ := (loadFillsRegisters.2 x { t with v := v }).1 (by rw [haddr]; exact h)
  exact ⟨t, u, ht, hu, fun k hk => by rw [hreg, if_pos hk, haddr, hbyte k hk]⟩

/-- Settles O30: a dump from PC on leaves V0 and V1 where the next fetch reads. -/
theorem dumpIsSeenByNextStep : Obligations.DumpIsSeenByNextStep := by
  intro x s i hrun hx hi h hd
  obtain ⟨t, ht, hbyte, -, hsame⟩ := (dumpStoresRegisters.2 x s).1 h
  have hpc : t.pc = s.pc := hsame .pc (by decide)
  have hfault : t.fault = none := (hsame .fault (by decide)).trans hrun
  have haddr : ∀ k, s.effAddr k = s.pc.toNat + k := fun k => by rw [State.effAddr, hi]
  have hbyte0 : t.mem.byte s.pc.toNat = s.reg 0 :=
    (congrArg t.mem.byte (haddr 0)).symm.trans (hbyte 0 (Fin.zero_le x))
  have hbyte1 : t.mem.byte (s.pc.toNat + 1) = s.reg 1 :=
    (congrArg t.mem.byte (haddr 1)).symm.trans (hbyte 1 (Fin.le_def.mpr hx))
  have hf : t.mem.fetch t.pc.toNat = .ok (wordOfBytes (s.reg 0) (s.reg 1)) := by
    rw [haddr] at h
    rw [hpc]
    exact (Memory.fetch_eq_ok _ _ _).mpr ⟨by omega, by rw [hbyte0, hbyte1]⟩
  exact ⟨t, ht, step_of_decoded hfault hf hd⟩

end Sys2Proof.Machine
end


section
/-! PROOFS. The draw: the cells it XORs, the collision it notes, its error, and a draw undone by the same draw. -/

namespace Sys2Proof.Machine

/-- The framebuffer and the collision after a draw of `n` rows from I, as `execDrw` computes them (R171 to R173). -/
def drawn (s : State) (x y : Reg) (n : Nat) : Framebuffer × Bool :=
  drawRows params.collision ((s.reg x).toNat % 64) ((s.reg y).toNat % 32) (s.mem.readBytes (s.effAddr 0) n)
    (s.fb, false)

theorem exec_drw_of_fits (x y : Reg) {n : Nat} {s : State} (h : n = 0 ∨ s.effAddr (n - 1) ≤ 0xFFF) :
    exec (.drw x y n) s = .next ((s.setScreen (drawn s x y n).1).setReg VF (flagOf (drawn s x y n).2)) := by
  rw [effAddr_eq] at h
  simp only [exec, execDrw, load_of_fits s.mem (show n = 0 ∨ s.effAddr 0 + n ≤ 0x1000 by omega), drawn]

theorem exec_drw_beyond (x y : Reg) {n : Nat} {s : State} (hn : 0 < n) (h : 0xFFF < s.effAddr (n - 1)) :
    exec (.drw x y n) s = raise .outOfBounds (.drw x y n) (some (max (s.effAddr 0) 0x1000)) s := by
  rw [effAddr_eq] at h
  simp only [exec, execDrw, load_beyond s.mem hn (show 0x1000 < s.effAddr 0 + n by omega)]

/-- The pixel that the rows read from I put on a cell is the sprite bit of R173. -/
theorem rowsPixel_readBytes (s : State) (vx vy : Byte) (n : Nat) (cx : Fin 64) (cy : Fin 32) :
    rowsPixel (s.mem.readBytes (s.effAddr 0) n) (rowOffset (vy.toNat % 32) cy) (columnOffset (vx.toNat % 64) cx) =
      spriteBit s vx vy n cx cy := by
  simp only [rowsPixel, rowOffset, columnOffset, Nat.mod_mod, Memory.readBytes_getElem?, spriteBit, spritePixel]
  by_cases hrow : (cy.val + 32 - vy.toNat % 32) % 32 < n
  · simp only [hrow, true_and]
    rfl
  · simp [hrow]

/-- A draw XORs each cell with the sprite bit that falls on it (R171). -/
theorem drawn_cell (s : State) (x y : Reg) {n : Nat} (hn : n ≤ 15) (cx : Fin 64) (cy : Fin 32) :
    (drawn s x y n).1.cell cx cy = (s.fb.cell cx cy ^^ spriteBit s (s.reg x) (s.reg y) n cx cy) := by
  rw [drawn, drawRows_cell _ _ _ _ (by rw [Memory.readBytes_length]; omega), rowsPixel_readBytes]

/-- A draw notes a collision when some sprite bit falls on a cell that holds 1 (R172, D8). -/
theorem drawn_hit (s : State) (x y : Reg) {n : Nat} (hn : n ≤ 15) :
    (drawn s x y n).2 = true ↔
      ∃ cx cy, spriteBit s (s.reg x) (s.reg y) n cx cy = true ∧ s.fb.cell cx cy = true := by
  have hhit := drawRows_hit ((s.reg x).toNat % 64) ((s.reg y).toNat % 32) (s.mem.readBytes (s.effAddr 0) n)
    (by rw [Memory.readBytes_length]; omega) (s.fb, false)
  simp only [rowsPixel_readBytes, Bool.false_eq_true, false_or] at hhit
  exact hhit

/-- A sprite bit falls on a cell that holds 1 exactly when the draw turns that cell off. -/
theorem turned_off_iff (s : State) (x y : Reg) {n : Nat} (hn : n ≤ 15) (cx : Fin 64) (cy : Fin 32) :
    (s.fb.cell cx cy = true ∧ (drawn s x y n).1.cell cx cy = false) ↔
      (spriteBit s (s.reg x) (s.reg y) n cx cy = true ∧ s.fb.cell cx cy = true) := by
  rw [drawn_cell s x y hn]
  cases s.fb.cell cx cy <;> simp

/-- Settles O32: the cells are those of the drawing loop, and the flag is the one register write. -/
theorem drawXorsSprite : Obligations.DrawXorsSprite := by
  refine ⟨rowDecodes_row (.drw 0 0 0), fun x y n s hn h =>
    ⟨_, exec_drw_of_fits x y h, drawn_cell s x y hn, rfl, setReg_regsUnchanged _ VF _, ?_⟩⟩
  exact ((setScreen_unchanged s _).trans (setReg_unchanged _ VF _)).mono (by decide)

/-- Settles O33: the noted collision is that some cell is turned off. -/
theorem drawSetsCollision : Obligations.DrawSetsCollision := by
  intro x y n s hn h
  have hflag : (drawn s x y n).2 = true ↔
      ∃ cx cy, s.fb.cell cx cy = true ∧ (drawn s x y n).1.cell cx cy = false := by
    simp only [turned_off_iff s x y hn, drawn_hit s x y hn]
  refine ⟨_, exec_drw_of_fits x y h, fun hoff => ?_, fun hoff => ?_⟩
  · rw [State.setReg_reg, if_pos rfl, hflag.mpr hoff]; rfl
  · rw [State.setReg_reg, if_pos rfl, Bool.eq_false_iff.mpr (mt hflag.mp hoff)]; rfl

/-- Settles O34: the sprite is loaded, range and all, before anything is drawn (R56). -/
theorem drawOutOfRangeRaises : Obligations.DrawOutOfRangeRaises := fun x y _ _ hpos _ h => exec_drw_beyond x y hpos h

/-- With no rows the drawing loop is over before it starts (R174). -/
theorem exec_drw_no_rows (x y : Reg) (s : State) :
    exec (.drw x y 0) s = .next ((s.setScreen s.fb).setReg VF 0) := exec_drw_of_fits x y (.inl rfl)

/-- Settles O35: what is left of the draw is the write of DIRTY and of the flag (D23). -/
theorem drawOfNoRows : Obligations.DrawOfNoRows := by
  intro x y s
  have hscreen : Unchanged [.dirty] s (s.setScreen s.fb) := setDirty_unchanged s true
  exact ⟨_, exec_drw_no_rows x y s, by rw [State.setReg_reg, if_pos rfl], rfl, setReg_regsUnchanged _ VF _,
    (hscreen.trans (setReg_unchanged _ VF _)).mono (by decide)⟩

/-- The sprite bit is read from memory and I alone. -/
theorem spriteBit_congr {s t : State} (hmem : ∀ a, t.mem.byte a = s.mem.byte a) (hi : t.i = s.i) (vx vy : Byte)
    (n : Nat) (cx : Fin 64) (cy : Fin 32) : spriteBit t vx vy n cx cy = spriteBit s vx vy n cx cy := by
  simp only [spriteBit, State.effAddr, hmem, hi]

/-- Settles O36: the second draw XORs the same bits, because the first wrote none of what it reads. -/
theorem drawTwiceRestoresScreen : Obligations.DrawTwiceRestoresScreen := by
  intro x y n s hx hy hn h
  obtain ⟨t, ht, htcell, -, htreg, htsame⟩ := drawXorsSprite.2 x y n s hn h
  have hi : t.i = s.i := htsame .index (by decide)
  have hmem : ∀ a, t.mem.byte a = s.mem.byte a := htsame .mem (by decide)
  have hvx : t.reg x = s.reg x := htreg x (by simpa using hx)
  have hvy : t.reg y = s.reg y := htreg y (by simpa using hy)
  have haddr : t.effAddr (n - 1) = s.effAddr (n - 1) := by simp only [State.effAddr, hi]
  obtain ⟨u, hu, hucell, -⟩ := drawXorsSprite.2 x y n t hn (haddr ▸ h)
  refine ⟨t, u, ht, hu, Framebuffer.ext_cells fun cx cy => ?_⟩
  rw [hucell, htcell, hvx, hvy, spriteBit_congr hmem hi, Bool.xor_assoc, Bool.xor_self, Bool.xor_false]

end Sys2Proof.Machine
end

section
/-! PROOFS. The key wait. -/

namespace Sys2Proof.Machine

theorem exec_ldVxK_of_pressed {x : Reg} {s : State} {k : Fin 16} (h : s.key k = true)
    (hleast : ∀ j, j < k → s.key j = false) :
    exec (.ldVxK x) s = .next ((s.setReg x (trunc8 k.val)).setWait false) := by
  simp only [exec, execLdVxK, (State.firstKey_eq_some s k).mpr ⟨h, hleast⟩]

theorem exec_ldVxK_of_idle {x : Reg} {s : State} (h : ∀ k, s.key k = false) :
    exec (.ldVxK x) s = .next ((s.setPc (s.pc - 2)).setWait true) := by
  simp only [exec, execLdVxK, (State.firstKey_eq_none s).mpr h]

/-- Settles O37: a pressed key ends the wait with one `setReg`, and no key puts PC back on the instruction (R192). -/
theorem keyWaitLoadsLeastKey : Obligations.KeyWaitLoadsLeastKey := by
  refine ⟨rowDecodes_row (.ldVxK 0), fun x s => ⟨fun k hk hleast => ?_, fun hidle => ?_⟩⟩
  · refine ⟨_, exec_ldVxK_of_pressed hk hleast, ?_, rfl, setReg_regsUnchanged s x _, ?_⟩
    · rw [State.setWait_reg, State.setReg_reg, if_pos rfl, trunc8_toNat]
      omega
    · exact ((setReg_unchanged s x _).trans (setWait_unchanged _ false)).mono (by decide)
  · exact ⟨_, exec_ldVxK_of_idle hidle, rfl, rfl,
      ((setPc_unchanged s _).trans (setWait_unchanged _ true)).mono (by decide)⟩

/-- A step of a key wait with no key pressed sets WAIT and leaves PC on the instruction (R192). -/
theorem step_keyWait_idle {x : Reg} {s : State} (hrun : s.fault = none)
    (hf : s.mem.fetch s.pc.toNat = .ok (encode (.ldVxK x))) (hidle : ∀ k, s.key k = false) :
    step s = .next { s with wait := true } := by
  rw [step_of_decoded hrun hf (decodeWord_encode rfl), exec_ldVxK_of_idle (s := s.advance) hidle,
    State.advance_pc_sub]
  rfl

/-- Settles O38: what the wait's step changes is nothing its next step reads. -/
theorem keyWaitRepeats : Obligations.KeyWaitRepeats := by
  intro x s n hrun hf hidle
  induction n generalizing s with
  | zero => rw [core_run_succ 0 (step_keyWait_idle hrun hf hidle)]; rfl
  | succ n ih =>
    rw [core_run_succ (n + 1) (step_keyWait_idle hrun hf hidle)]
    exact ih { s with wait := true } hrun hf hidle

end Sys2Proof.Machine
end

section
/-! PROOFS. Over all instructions: which of them reach each piece of state, from the shapes of `Effect`, and which raise
nothing. -/

namespace Sys2Proof.Machine

/-! ### Timers, keys and WAIT (R27 to R29) -/

theorem Effect.wait_eq {i : Instr} {s t : State} (h : Effect s i t) (hi : ∀ x, i ≠ .ldVxK x) : t.wait = s.wait := by
  cases h
  case keyArrives x _ | keyWaits x => exact absurd rfl (hi x)
  all_goals simp

theorem Effect.keys_eq {i : Instr} {s t : State} (h : Effect s i t) : t.keys = s.keys := by
  cases h <;> simp

/-- Settles O40: the effects on each of the four, by shape. -/
theorem timersKeysWaitWriters : Obligations.TimersKeysWaitWriters := by
  intro i s t h
  have he := exec_effect h
  refine ⟨fun hi => ?_, fun hi => ?_, he.wait_eq, he.keys_eq⟩
  · exact he.dt_eq.resolve_right fun ⟨x, hx, _⟩ => hi x hx
  · exact he.st_eq.resolve_right fun ⟨x, hx, _⟩ => hi x hx

/-! ### The stack (R26) -/

theorem Effect.stack_eq {i : Instr} {s t : State} (h : Effect s i t) (hcall : ∀ nnn, i ≠ .call nnn)
    (hret : i ≠ .ret) : t.sp = s.sp ∧ t.stack = s.stack := by
  cases h
  case calls nnn _ => exact absurd rfl (hcall nnn)
  case returns => exact absurd rfl hret
  all_goals simp

/-- An instruction moves SP by at most one. -/
theorem Effect.sp_near {i : Instr} {s t : State} (h : Effect s i t) :
    t.sp.val ≤ s.sp.val + 1 ∧ s.sp.val ≤ t.sp.val + 1 := by
  cases h
  case calls | returns => simp only [State.setPc_sp]; omega
  all_goals simp

/-- Settles O41: the effects on the stack, by shape. -/
theorem stackWriters : Obligations.StackWriters := fun _ _ _ h =>
  ⟨(exec_effect h).stack_eq, (exec_effect h).sp_near⟩

/-! ### Memory and the framebuffer (R31, R51, R55) -/

theorem Effect.mem_eq {i : Instr} {s t : State} (h : Effect s i t) (hbcd : ∀ x, i ≠ .ldBVx x)
    (hdump : ∀ x, i ≠ .ldMIVx x) : t.mem = s.mem := by
  cases h
  case storesDigits x _ _ => exact absurd rfl (hbcd x)
  case storesRegs x _ _ => exact absurd rfl (hdump x)
  all_goals simp

theorem Effect.screen_eq {i : Instr} {s t : State} (h : Effect s i t) (hcls : i ≠ .cls)
    (hdrw : ∀ x y n, i ≠ .drw x y n) : t.fb = s.fb ∧ t.dirty = s.dirty := by
  cases h
  case clears => exact absurd rfl hcls
  case paints x y n _ _ => exact absurd rfl (hdrw x y n)
  all_goals simp

theorem Effect.dirty_stays {i : Instr} {s t : State} (h : Effect s i t) (hdirty : s.dirty = true) : t.dirty = true := by
  cases h <;> simp [hdirty]

/-- Settles O42: the effects on memory and on the screen, by shape. -/
theorem memoryAndScreenWriters : Obligations.MemoryAndScreenWriters := by
  intro i s t h
  have he := exec_effect h
  exact ⟨fun hbcd hdump a => by rw [he.mem_eq hbcd hdump], he.screen_eq, he.dirty_stays⟩

/-! ### Registers, I and PC (R21, R24, R25) -/

/-- A register outside those of the instruction's line of R21 is kept. -/
theorem Effect.reg_eq {i : Instr} {s t : State} (h : Effect s i t) : RegsUnchanged i.writtenRegs s t := by
  intro r hr
  cases h
  case writes x b hi =>
    rw [hi] at hr
    exact setReg_regsUnchanged s x b r hr
  case writesFlag x b f hi =>
    rw [hi] at hr
    obtain ⟨hx, hVF⟩ := not_or.mp (mt List.mem_pair.mpr hr)
    rw [State.setRegFlag_reg, if_neg hVF, if_neg hx]
  case draws x nn b => exact setReg_regsUnchanged s x b r hr
  case keyArrives x b => exact setReg_regsUnchanged s x b r hr
  case paints x y n fb f => exact setReg_regsUnchanged (s.setScreen fb) VF f r hr
  case loadsRegs x bs hbs =>
    obtain ⟨-, rfl⟩ := (Memory.load_eq_ok _ _ _ _).mp hbs
    rw [reg_loaded, if_neg (by simpa [Instr.writtenRegs] using hr)]
  all_goals simp [State.reg]

theorem Effect.index_eq {i : Instr} {s t : State} (h : Effect s i t) (hi : i.writesIndex = false) : t.i = s.i := by
  cases h
  case writesIndex a hw => exact absurd hw (Bool.eq_false_iff.mp hi)
  all_goals simp

/-- Settles O43: the effects on the registers and on I, by shape. -/
theorem registerWriters : Obligations.RegisterWriters := fun _ _ _ h =>
  ⟨(exec_effect h).reg_eq, (exec_effect h).index_eq⟩

/-- An instruction that completes and transfers no control leaves PC as the fetch left it. -/
theorem Effect.pc_eq {i : Instr} {s t : State} (h : Effect s i t) (hrun : t.fault = none)
    (hi : i.transfersControl = false) : t.pc = s.pc := by
  cases h
  case raises => cases hrun
  case skips c hw => exact absurd hw (Bool.eq_false_iff.mp hi)
  case jumps | calls | returns | keyWaits => cases hi
  all_goals simp

/-- Settles O44: the effects on PC, by shape. -/
theorem onlyTransfersMoveProgramCounter : Obligations.OnlyTransfersMoveProgramCounter :=
  fun _ _ _ h _ hrun hi => (exec_effect h).pc_eq hrun hi

/-! ### The instructions that raise nothing (R211) -/

/-- Settles O45: the meaning of each listed instruction is one update that leaves FAULT alone. -/
theorem listedInstructionsRaiseNothing : Obligations.ListedInstructionsRaiseNothing := by
  intro i s hi
  cases i
  case ret | call | drw | skp | sknp | addIVx | ldFVx | ldBVx | ldMIVx | ldVxMI => cases hi
  case seImm | sneImm | seReg | sneReg => exact ⟨_, rfl, State.skipIf_fault s _⟩
  case ldVxK x =>
    cases hk : s.firstKey with
    | none => exact ⟨_, exec_ldVxK_of_idle ((State.firstKey_eq_none s).mp hk), rfl⟩
    | some k =>
      obtain ⟨hpressed, hleast⟩ := (State.firstKey_eq_some s k).mp hk
      exact ⟨_, exec_ldVxK_of_pressed hpressed hleast, rfl⟩
  all_goals exact ⟨_, rfl, rfl⟩

end Sys2Proof.Machine
end
